-- ==== Sys2Proof/Word.lean ====
section
/-! DEFINITION. The word types of the I2C LCD write controller (spec/00_scope.md rule R15: `u4`, `u7`, `u8`, `u16`,
every value unsigned). -/

namespace Sys2Proof

/-- `u4`: a nibble, presented on the LCD lines D7..D4. -/
abbrev Nibble := BitVec 4

/-- `u7`: an I2C target address or a request length (R7, R93). -/
abbrev Word7 := BitVec 7

/-- `u8`: a port image, a command or a data byte. -/
abbrev Byte := BitVec 8

/-- `u16`: a request descriptor (`REQ16`) or a result word (`RES16`). -/
abbrev Word16 := BitVec 16

end Sys2Proof
end

