-- ==== Sys2Proof/Inputs.lean ====
section
/-! DEFINITION. What the outside world can do to the block, as plain data: the bus adapter's answers, the host's events
and the turn of each step. The spec calls these draws and host inputs (spec/00_scope.md R13, spec/92_eei_decisions.md
OPEN parameters). -/

namespace Sys2Proof

/-- The adapter's failure kinds, surfaced unchanged (R113, R271). -/
inductive TxKind where
  | nack
  | arbLost
  | adapterError
  deriving DecidableEq, Repr, Inhabited

/-- What one transaction returns: `OK` or `ERR(kind)` (R16, R110). -/
inductive TxStatus where
  | ok
  | err (kind : TxKind)
  deriving DecidableEq, Repr, Inhabited

/-- The adapter's draws for one transaction: its outcome, and its duration `t_tx`, which is positive (R115), written as
`t_tx - 1` so that every value of the field is a legal draw. -/
structure TxDraw where
  status : TxStatus
  txTimeLess1 : Nat
  deriving DecidableEq, Repr, Inhabited

/-- A request as it stands on the host's lines (R93): the `REQ16` descriptor, the identity of the caller (not part of
the descriptor), the 64 `DATA` bytes (a WRITE uses the first `LEN7`), and `CAP_OK` and `ALLOC_OK` for an ATTACH. -/
structure Request where
  word : Word16
  caller : Nat
  data : Vector Byte 64
  capOk : Bool
  allocOk : Bool
  deriving DecidableEq, Repr, Inhabited

/-- What a host can present to an instance. -/
inductive HostEvent where
  /-- A `REQ16` descriptor with its side inputs (R93); the word 0x0000 is `IDLE`, no request (R259). -/
  | request (r : Request)
  /-- Any read request (R258 F8). -/
  | read
  /-- A backlight change, a command pass-through, or any other control (R258 F9). -/
  | control
  /-- A reset of the instance (R300): at the start of its run, or refused (R302). -/
  | reset
  deriving DecidableEq, Repr, Inhabited

/-- Whose move the next step is. Time passes only by draws (R138), and the interleaving of instances on a bus is open
(R60), so the turns are an input. -/
inductive Turn where
  /-- The host presents an event to the instance in focus. -/
  | host (e : HostEvent)
  /-- The host supplies `REG_OK` to the instance in focus (R247). -/
  | register (ok : Bool)
  /-- The instance in focus takes its next own action: one micro-operation, or a grant. -/
  | single
  /-- As `single`, but where a whole NIB5 or LCD9 instruction of the opcode table begins, all of it. -/
  | whole
  /-- Time passes and nothing else happens (the bus is busy elsewhere, or the host is slow). -/
  | pass (dt : Nat)
  /-- Another instance on the bus comes into focus. -/
  | focus (k : Nat)
  deriving DecidableEq, Repr, Inhabited

end Sys2Proof
end

