-- ==== Sys2Proof/Config.lean ====
section
/-! DEFINITION. What is fixed for this hardware (spec/00_scope.md section 3), and the free values: what the
environment decides, as constants without a body, applied to a counter. -/

namespace Sys2Proof.Config

/-- The default I2C address of the expander (R7). -/
def addrDefault : Word7 := 0x27

/-- The alternate address, of the variant expander chip (R7). -/
def addrAlternate : Word7 := 0x3F

/-- `RENDER_MAX` = `COLS` × `ROWS` (R8, R9). -/
def renderMax : Nat := 32

/-- `MAX_REQ_LEN` (R10). -/
def maxReqLen : Nat := 64

/-- The turns the environment takes once a script of turns is used up, the host's `REG_OK` among them (R247; assumption
log 1). -/
opaque freeTurn : Nat → Turn

/-- The adapter's draws `status` and `t_tx` (R110, R115; log 1). -/
opaque freeTx : Nat → TxDraw

/-- The draw `t_over >= 0` of each wait (R130; log 1). -/
opaque freeOver : Nat → Nat

/-- The choice among blocked writers (R251; log 1). -/
opaque freePick : Nat → Nat

/-- `F_CLK_HZ - 1`: the clock of a cycle-level delay counter is OPEN and positive (R13). -/
opaque clkHzLess1 : Nat

/-- `F_CLK_HZ` (R13). -/
def clkHz : Nat := clkHzLess1 + 1

end Sys2Proof.Config
end

