-- ==== Sys2Proof/Machine/State.lean ====
section
/-! DEFINITION. The state of the I2C LCD write controller, spec/10_state.md R20 to R38, with the LCD reference state of
spec/20_memory.md R64 and the model's own fields for the environment; and the state after reset (R300). -/

namespace Sys2Proof.Machine

/-- `life` (R21). -/
inductive Life where
  | detached
  | attaching
  | ready
  | writing
  | detaching
  deriving DecidableEq, Repr, Inhabited

/-- `lock` (R24). -/
inductive Lock where
  | free
  | held
  deriving DecidableEq, Repr, Inhabited

/-- The DeviceContext but for its lock: `ctx.addr` (R22) and `ctx.backlight` (R23). It exists while the instance is not
DETACHED. -/
structure Ctx where
  addr : Word7
  backlight : Bool
  deriving DecidableEq, Repr, Inhabited

/-- A blocked WRITE request but for its caller, which is its key (R25): `LEN7`, and the bytes 0..min(len,32)-1 latched
at issue (R26). -/
structure Waiter where
  len : Word7
  buf : List Byte
  deriving DecidableEq, Repr, Inhabited

/-- `cur`, the WRITE being served (R26). -/
structure Cur where
  caller : Nat
  len : Word7
  buf : List Byte
  deriving DecidableEq, Repr, Inhabited

/-- The two micro-operations (R18). `tx v rs en` is `Tx(img(v, rs, ctx.backlight, en))`, whose image is built when it
runs (R157); `wait t` is `Wait(t)` with `t` in ns. -/
inductive MicroOp where
  | tx (v : Nibble) (rs en : Bool)
  | wait (t : Nat)
  deriving DecidableEq, Repr, Inhabited

/-- `prog` and `upc` (R27). -/
structure Seq where
  prog : List MicroOp
  upc : Nat
  deriving DecidableEq, Repr, Inhabited

/-- `nib_phase` (R28, R151). -/
inductive NibPhase where
  | idle
  | txHi
  | holdHi
  | txLo
  | holdLo
  deriving DecidableEq, Repr, Inhabited

/-- `init_step` (R28, R191). -/
inductive InitStep where
  | power
  | n3a
  | n3b
  | n3c
  | n2
  | fset
  | dctl
  | clear
  | entry
  | done
  deriving DecidableEq, Repr, Inhabited

/-- `wb_step` (R28). -/
inductive WbStep where
  | clear
  | home
  | row1
  | data
  | done
  deriving DecidableEq, Repr, Inhabited

/-- The nested FSM registers of R28. -/
structure Fsm where
  nibPhase : NibPhase
  nibVal : Nibble
  nibRs : Bool
  /-- `byte_half`: false high nibble, true low nibble. -/
  byteHalf : Bool
  initStep : InitStep
  wbStep : WbStep
  wbI : BitVec 6
  wbEff : BitVec 6
  deriving DecidableEq, Repr, Inhabited

/-- `dly` (R29). -/
inductive Dly where
  | idle
  | running (tMin tStart : Nat)
  deriving DecidableEq, Repr, Inhabited

/-- `port_latch`, or UNKNOWN (R33). -/
inductive PortLatch where
  | unknown
  | image (b : Byte)
  deriving DecidableEq, Repr, Inhabited

/-- A display cell (R64): the abstract BLANK, or a character code. -/
inductive LcdCell where
  | blank
  | code (b : Byte)
  deriving DecidableEq, Repr, Inhabited

/-- `cfg` of the LCD reference state (R64). -/
structure LcdCfg where
  fourBit : Bool
  twoLines : Bool
  font5x8 : Bool
  displayOn : Bool
  cursorOn : Bool
  blinkOn : Bool
  increment : Bool
  displayShift : Bool
  deriving DecidableEq, Repr, Inhabited

/-- `{cfg, cells, cur}` (R64): 2 rows of 16 cells, and a cursor with row in 0..1 and column in 0..16. -/
structure LcdRec where
  cfg : LcdCfg
  cells : Vector (Vector LcdCell 16) 2
  row : Fin 2
  col : Fin 17
  deriving DecidableEq, Repr, Inhabited

/-- `lcd` (R34, R64). -/
inductive Lcd where
  | unknown
  | known (r : LcdRec)
  deriving DecidableEq, Repr, Inhabited

/-- An entry of `hist` (R35): a transaction (`t_issue`, `t_done`, `addr`, `img`, `status`) or a wait (`t_start`,
`t_end`, `t_min`). -/
inductive Event where
  | tx (tIssue tDone : Nat) (addr : Word7) (img : Byte) (status : TxStatus)
  | wait (tStart tEnd tMin : Nat)
  deriving DecidableEq, Repr, Inhabited

/-- The rows of the refusal table R258, and the reset within a run that R302 refuses. -/
inductive RefusalRow where
  | f1
  | f2
  | f3
  | f4
  | f5
  | f6
  | f7
  | f8
  | f9
  | resetWithinRun
  deriving DecidableEq, Repr, Inhabited

/-- One instance (R20). `waiters` and `result` are keyed by the caller, in rising order, so that equal collections are
equal lists. -/
structure Inst where
  life : Life
  ctx : Option Ctx
  lock : Lock
  waiters : List (Nat × Waiter)
  cur : Option Cur
  seq : Option Seq
  fsm : Fsm
  dly : Dly
  result : List (Nat × Word16)
  attachResult : Option Word16
  refused : Bool
  portLatch : PortLatch
  lcd : Lcd
  hist : List Event
  /-- The caller of the ATTACH or DETACH in progress: implied by R240 and R254 (assumption log 5). -/
  opCaller : Option Nat
  /-- The row that set `refused` (the model's own field, log 6). -/
  refusedBy : Option RefusalRow
  /-- The micro-operations completed since `lcd` last settled (the model's own field, log 7). -/
  trail : List MicroOp
  deriving DecidableEq, Repr, Inhabited

/-- A source of draws: a script of values, and the count of free values taken after it (log 1). -/
structure Draws (α : Type) where
  script : List α
  used : Nat
  deriving DecidableEq, Repr, Inhabited

/-- The environment's inputs still to come (the model's own field, log 1). -/
structure Env where
  turns : Draws Turn
  txs : Draws TxDraw
  overs : Draws Nat
  picks : Draws Nat
  deriving DecidableEq, Repr, Inhabited

/-- One bus with its instances: the one in focus, the others, the request lines as last driven, the time base (R138),
and the inputs to come. -/
structure State where
  inst : Inst
  peers : List Inst
  port : Request
  now : Nat
  env : Env
  deriving DecidableEq, Repr, Inhabited

/-- Why a step stops with a fault. -/
inductive Fault where
  /-- Raised by a micro-operation, or an instruction made of micro-operations, when no operation runs: `ctx.addr` and
  `ctx.backlight` hold no value then, and the spec says that such a read cannot occur (R22). Safe. -/
  | noOperation
  deriving DecidableEq, Repr

/-- Why a step has no meaning. -/
inductive Refusal where
  /-- Raised by an arm of `exec` whose instruction has no meaning yet. Safe. -/
  | notModelled (mnemonic : String)
  /-- Raised by `step` on an instance whose sticky `refused` mark is set: the spec gives no meaning to the run from that
  point (R32, R272). Safe. -/
  | runHasNoMeaning
  /-- Raised by `step` on a port image that decodes to no transaction of this block (R82). No image built by R81 is
  one. Safe. -/
  | notAnImage
  deriving DecidableEq, Repr

/-- The reset value of the registers of R28, which the spec leaves unspecified (log 3). -/
def Fsm.reset : Fsm where
  nibPhase := .idle
  nibVal := 0
  nibRs := false
  byteHalf := false
  initStep := .power
  wbStep := .clear
  wbI := 0
  wbEff := 0

/-- An instance after reset (R300 and spec/10_state.md section 9). -/
def Inst.reset : Inst where
  life := .detached
  ctx := none
  lock := .free
  waiters := []
  cur := none
  seq := none
  fsm := Fsm.reset
  dly := .idle
  result := []
  attachResult := none
  refused := false
  portLatch := .unknown
  lcd := .unknown
  hist := []
  opCaller := none
  refusedBy := none
  trail := []

/-- The request lines when no caller is issuing: `IDLE` (R259), with the model's choice of side inputs (log 4). -/
def Request.quiet : Request where
  word := 0x0000
  caller := 0
  data := Vector.replicate 64 0
  capOk := true
  allocOk := true

/-- No script: every draw is a free value. -/
def Env.open : Env where
  turns := ⟨[], 0⟩
  txs := ⟨[], 0⟩
  overs := ⟨[], 0⟩
  picks := ⟨[], 0⟩

/-- The machine after reset (R300): one instance on its bus (log 8), time at 0 (log 4), every draw free. -/
def State.reset : State where
  inst := Inst.reset
  peers := []
  port := Request.quiet
  now := 0
  env := Env.open

/-- The code of `life` (R21). -/
def Life.code : Life → BitVec 3
  | .detached => 0
  | .attaching => 1
  | .ready => 2
  | .writing => 3
  | .detaching => 4

/-- The code of `nib_phase` (R28). -/
def NibPhase.code : NibPhase → BitVec 3
  | .idle => 0
  | .txHi => 1
  | .holdHi => 2
  | .txLo => 3
  | .holdLo => 4

/-- The code of `init_step` (R191). -/
def InitStep.code : InitStep → BitVec 4
  | .power => 0
  | .n3a => 1
  | .n3b => 2
  | .n3c => 3
  | .n2 => 4
  | .fset => 5
  | .dctl => 6
  | .clear => 7
  | .entry => 8
  | .done => 9

/-- The code of `wb_step` (R28). -/
def WbStep.code : WbStep → BitVec 3
  | .clear => 0
  | .home => 1
  | .row1 => 2
  | .data => 3
  | .done => 4

end Sys2Proof.Machine
end

