-- ==== Sys2Proof/Machine/Assoc.lean ====
section
/-! DEFINITION. Collections keyed by a caller, in one canonical form: keys strictly rising (the multiset `waiters` of
spec/10_state.md R25 and the map `result` of R30). -/

namespace Sys2Proof.Machine

variable {α : Type}

/-- The value at a key. -/
def assocGet (k : Nat) : List (Nat × α) → Option α
  | [] => none
  | (k', v) :: l => if k = k' then some v else assocGet k l

/-- The collection with the value at a key put in, or replaced. -/
def assocPut (k : Nat) (v : α) : List (Nat × α) → List (Nat × α)
  | [] => [(k, v)]
  | (k', v') :: l =>
    if k < k' then (k, v) :: (k', v') :: l
    else if k = k' then (k, v) :: l
    else (k', v') :: assocPut k v l

/-- The canonical form. -/
abbrev assocWf (l : List (Nat × α)) : Prop := l.Pairwise (fun a b => a.1 < b.1)

end Sys2Proof.Machine
end

