-- ==== Sys2Proof/Machine/Flags.lean ====
section
/-! DEFINITION. The words and flags the block computes: the result word `RES16` (spec/30_encoding.md R94,
spec/60_exceptions.md R270, R271) and the sticky `refused` mark (spec/10_state.md R32). The block has no condition
codes (R36). -/

namespace Sys2Proof.Machine

/-- The four error kinds and success (R270). -/
inductive Result where
  | ok (count : Word7)
  | capabilityError
  | allocationError
  | transportError (kind : TxKind)
  | registrationError
  deriving DecidableEq, Repr

/-- `KIND` (R94, R271). -/
def kindCode : TxKind → BitVec 2
  | .nack => 1
  | .arbLost => 2
  | .adapterError => 3

/-- `RES16` from its fields: `COUNT` in bits 15..8, zeros in 7..5, `KIND` in 4..3, `STATUS` in 2..0 (R94). -/
def res16 (count : Byte) (kind : BitVec 2) (status : BitVec 3) : Word16 := count ++ 0#3 ++ kind ++ status

/-- The result word of each outcome (R94, R270). -/
def Result.word : Result → Word16
  | .ok count => res16 (count.setWidth 8) 0 0
  | .capabilityError => res16 0 0 1
  | .allocationError => res16 0 0 2
  | .transportError kind => res16 0 (kindCode kind) 3
  | .registrationError => res16 0 0 4

/-- `STATUS` of a result word (R94). -/
def res16Status (w : Word16) : BitVec 3 := w.extractLsb' 0 3

/-- `KIND` of a result word (R94). -/
def res16Kind (w : Word16) : BitVec 2 := w.extractLsb' 3 2

/-- `COUNT` of a result word (R94). -/
def res16Count (w : Word16) : Byte := w.extractLsb' 8 8

/-- R258, R32: a request without a meaning sets the sticky mark, and nothing else; the first one names its row. -/
def Inst.refuse (row : RefusalRow) (i : Inst) : Inst :=
  { i with refused := true, refusedBy := some (i.refusedBy.getD row) }

/-- The lock as a function of `life` (R24). -/
def lockOf : Life → Lock
  | .attaching | .writing | .detaching => .held
  | .detached | .ready => .free

end Sys2Proof.Machine
end

