-- ==== Sys2Proof/Syntax.lean ====
section
/-! DEFINITION. The 15 rows of spec/opcode_table.json as one inductive type, with the operands each format gives them
(spec/30_encoding.md). -/

namespace Sys2Proof

/-- One constructor per row of the opcode table. -/
inductive Instr where
  /-- `IDLE` (REQ16, R259). -/
  | idle
  /-- `ATTACH` with `ADDR7` (REQ16, R241). -/
  | attach (addr : Word7)
  /-- `WRITE` with `LEN7` (REQ16, R250); the data bytes are side inputs. -/
  | write (len : Word7)
  /-- `DETACH` (REQ16, R254). -/
  | detach
  /-- `PORT_EN_HI`: `DDDDB10S` (PORT8, R83, R150). -/
  | portEnHi (d : Nibble) (bl rs : Bool)
  /-- `PORT_EN_LO`: `DDDDB00S` (PORT8, R83, R150). -/
  | portEnLo (d : Nibble) (bl rs : Bool)
  /-- `INIT_NIB_3` (NIB5, R166). -/
  | initNib3
  /-- `INIT_NIB_2` (NIB5, R167). -/
  | initNib2
  /-- `FUNCTION_SET` (LCD9, R163). -/
  | functionSet
  /-- `DISPLAY_CONTROL` (LCD9, R162). -/
  | displayControl
  /-- `CLEAR` (LCD9, R159). -/
  | clear
  /-- `ENTRY_MODE_SET` (LCD9, R161). -/
  | entryModeSet
  /-- `HOME` (LCD9, R160). -/
  | home
  /-- `SET_DDRAM_ROW1` (LCD9, R164). -/
  | setDdramRow1
  /-- `DATA` with its byte (LCD9, R165). -/
  | data (b : Byte)
  deriving DecidableEq, Repr, Inhabited

/-- The four formats (spec/30_encoding.md, first table). -/
inductive Format where
  | req16
  | port8
  | nib5
  | lcd9
  deriving DecidableEq, Repr

/-- The width of a format in bits. -/
def Format.width : Format → Nat
  | .req16 => 16
  | .port8 => 8
  | .nib5 => 5
  | .lcd9 => 9

/-- The format of each row of the opcode table. -/
def Instr.format : Instr → Format
  | .idle | .attach _ | .write _ | .detach => .req16
  | .portEnHi _ _ _ | .portEnLo _ _ _ => .port8
  | .initNib3 | .initNib2 => .nib5
  | .functionSet | .displayControl | .clear | .entryModeSet | .home | .setDdramRow1 | .data _ => .lcd9

end Sys2Proof
end

