-- ==== Sys2Proof/WellFormed.lean ====
section
/-! DEFINITION. Which terms of `Instr` are instructions. The one check beyond the operand widths is `LEN7 <= 64`
(spec/30_encoding.md R95, spec/00_scope.md R10). -/

namespace Sys2Proof

/-- R95: a WRITE descriptor with `LEN7` of 65 to 127 matches no row. -/
def Instr.wellFormed : Instr → Bool
  | .write len => decide (len.toNat ≤ Config.maxReqLen)
  | .idle | .attach _ | .detach | .portEnHi _ _ _ | .portEnLo _ _ _ | .initNib3 | .initNib2 | .functionSet
  | .displayControl | .clear | .entryModeSet | .home | .setDdramRow1 | .data _ => true

end Sys2Proof
end

