-- ==== Sys2Proof/Decode.lean ====
section
/-! DEFINITION. The decoders of the four formats, each written from the match and mask columns of
spec/opcode_table.json and spec/30_encoding.md R80 to R95, total and rejecting by name; then the encoder, and the
host's `decodeTableWord`. -/

namespace Sys2Proof

/-- Why a word is no instruction. -/
inductive DecodeError where
  /-- A `REQ16` that matches no row of R95 (R258 F1). -/
  | noRequestRow
  /-- A WRITE descriptor with `LEN7` of 65 to 127 (R95, R258 F1). -/
  | lengthOver64
  /-- A port image with RW = 1: never emitted, no transaction of this block (R82, R90). -/
  | readWriteSet
  /-- A raw nibble other than those of R88: never emitted (R90). -/
  | neverEmittedNibble
  /-- A command byte other than those of R87: never emitted (R90). -/
  | neverEmittedCommand
  /-- A word wider than its format. -/
  | tooWide
  deriving DecidableEq, Repr

/-- R95: the `REQ16` descriptor patterns. -/
def decodeReq16 (w : Word16) : Except DecodeError Instr :=
  if w &&& 0xFFFF = 0x0000 then .ok .idle
  else if w &&& 0xFE03 = 0x0001 then .ok (.attach (w.extractLsb' 2 7))
  else if w &&& 0x01FF = 0x0002 then
    if (w.extractLsb' 9 7).toNat ≤ Config.maxReqLen then .ok (.write (w.extractLsb' 9 7)) else .error .lengthOver64
  else if w &&& 0xFFFF = 0x0003 then .ok .detach
  else .error .noRequestRow

/-- R80, R83: the two `PORT8` patterns `DDDDB10S` and `DDDDB00S`. -/
def decodePort8 (w : Byte) : Except DecodeError Instr :=
  if w &&& 0x06 = 0x04 then .ok (.portEnHi (w.extractLsb' 4 4) (w.getLsbD 3) (w.getLsbD 0))
  else if w &&& 0x06 = 0x00 then .ok (.portEnLo (w.extractLsb' 4 4) (w.getLsbD 3) (w.getLsbD 0))
  else .error .readWriteSet

/-- R85, R88: the two raw nibbles the block emits. -/
def decodeNib5 (w : BitVec 5) : Except DecodeError Instr :=
  if w &&& 0x1F = 0x03 then .ok .initNib3
  else if w &&& 0x1F = 0x02 then .ok .initNib2
  else .error .neverEmittedNibble

/-- R85, R87, R89: the six commands and the data bytes. -/
def decodeLcd9 (w : BitVec 9) : Except DecodeError Instr :=
  if w &&& 0x100 = 0x100 then .ok (.data (w.extractLsb' 0 8))
  else if w &&& 0x1FF = 0x028 then .ok .functionSet
  else if w &&& 0x1FF = 0x00C then .ok .displayControl
  else if w &&& 0x1FF = 0x001 then .ok .clear
  else if w &&& 0x1FF = 0x006 then .ok .entryModeSet
  else if w &&& 0x1FF = 0x002 then .ok .home
  else if w &&& 0x1FF = 0x0C0 then .ok .setDdramRow1
  else .error .neverEmittedCommand

/-- Any number read as a word of a format. -/
def decode (f : Format) (w : Nat) : Except DecodeError Instr :=
  if w < 2 ^ f.width then
    match f with
    | .req16 => decodeReq16 (BitVec.ofNat 16 w)
    | .port8 => decodePort8 (BitVec.ofNat 8 w)
    | .nib5 => decodeNib5 (BitVec.ofNat 5 w)
    | .lcd9 => decodeLcd9 (BitVec.ofNat 9 w)
  else .error .tooWide

/-- `1#1` for a set flag, for the one-bit fields of the formats. -/
def bit (b : Bool) : BitVec 1 := BitVec.ofBool b

/-- R93: `REQ16` from its fields, `LEN7` in bits 15..9, `ADDR7` in 8..2, `OP` in 1..0. -/
def req16 (len addr : Word7) (op : BitVec 2) : Word16 := len ++ addr ++ op

/-- R80: `PORT8` from its fields, bit 7 first. -/
def port8 (d : Nibble) (bl en rw rs : Bool) : Byte := d ++ bit bl ++ bit en ++ bit rw ++ bit rs

/-- R85: `NIB5`, {rs, v}. -/
def nib5 (rs : Bool) (v : Nibble) : BitVec 5 := bit rs ++ v

/-- R85: `LCD9`, {rs, b}. -/
def lcd9 (rs : Bool) (b : Byte) : BitVec 9 := bit rs ++ b

/-- The word of each instruction in its own format, written from the fields of the formats. -/
def encode : Instr → Nat
  | .idle => (req16 0 0 0b00).toNat
  | .attach addr => (req16 0 addr 0b01).toNat
  | .write len => (req16 len 0 0b10).toNat
  | .detach => (req16 0 0 0b11).toNat
  | .portEnHi d bl rs => (port8 d bl true false rs).toNat
  | .portEnLo d bl rs => (port8 d bl false false rs).toNat
  | .initNib3 => (nib5 false 0x3).toNat
  | .initNib2 => (nib5 false 0x2).toNat
  | .functionSet => (lcd9 false 0x28).toNat
  | .displayControl => (lcd9 false 0x0C).toNat
  | .clear => (lcd9 false 0x01).toNat
  | .entryModeSet => (lcd9 false 0x06).toNat
  | .home => (lcd9 false 0x02).toNat
  | .setDdramRow1 => (lcd9 false 0xC0).toNat
  | .data b => (lcd9 true b).toNat

/-- The match and mask columns of spec/opcode_table.json, for each row. -/
def tableRow : Instr → Nat × Nat
  | .idle => (0x0000, 0xFFFF)
  | .attach _ => (0x0001, 0xFE03)
  | .write _ => (0x0002, 0x01FF)
  | .detach => (0x0003, 0xFFFF)
  | .portEnHi _ _ _ => (0x04, 0x06)
  | .portEnLo _ _ _ => (0x00, 0x06)
  | .initNib3 => (0x03, 0x1F)
  | .initNib2 => (0x02, 0x1F)
  | .functionSet => (0x028, 0x1FF)
  | .displayControl => (0x00C, 0x1FF)
  | .clear => (0x001, 0x1FF)
  | .entryModeSet => (0x006, 0x1FF)
  | .home => (0x002, 0x1FF)
  | .setDdramRow1 => (0x0C0, 0x1FF)
  | .data _ => (0x100, 0x100)

/-- The first of two readings that is an instruction. -/
def firstOk (a b : Except DecodeError Instr) : Option Instr :=
  match a with
  | .ok i => some i
  | .error _ => b.toOption

/-- A word whose format is not said (assumption log 2). A word of 8 bits is a port image, or else a nibble; a word of
16 bits is a request descriptor, the one 16-bit word that reaches the block from outside, or else a command or data
byte. Widths 5 and 9 are NIB5 and LCD9 alone. -/
def decodeTableWord (nbits w : Nat) : Option Instr :=
  if nbits = 16 then firstOk (decode .req16 w) (decode .lcd9 w)
  else if nbits = 9 then (decode .lcd9 w).toOption
  else if nbits = 8 then firstOk (decode .port8 w) (decode .nib5 w)
  else if nbits = 5 then (decode .nib5 w).toOption
  else none

end Sys2Proof
end

