-- ==== Sys2Proof/Machine/Operands.lean ====
section
/-! DEFINITION. Operand assembly: the port image (spec/30_encoding.md R81), the nibble split (R84), the minimum waits
(spec/41_delay_generator.md R134), and the micro-programs (spec/42_nibble_command.md R150, R153,
spec/43_init_sequencer.md R180, spec/44_buffer_writer.md R210, spec/45_lifecycle.md R254). -/

namespace Sys2Proof.Machine

/-- `PIN_RS` (R11). -/
def pinRs : Byte := 0x01

/-- `PIN_EN` (R11). -/
def pinEn : Byte := 0x04

/-- `PIN_BL` (R11). -/
def pinBl : Byte := 0x08

/-- `DATA_SHIFT` (R11). -/
def dataShift : Nat := 4

/-- `img(v, rs, bl, en)` (R81). `PIN_RW` never appears. -/
def image (v : Nibble) (rs bl en : Bool) : Byte :=
  (v.setWidth 8 <<< dataShift) ||| (if en then pinEn else 0) ||| (if bl then pinBl else 0) ||| (if rs then pinRs else 0)

/-- The address byte `{ADDR7, 0}` of a write on the bus (R111). The framing is the adapter's, and no rule reads it. -/
def addressByte (addr : Word7) : Byte := addr ++ 0#1

/-- `b[7:4]` (R84). -/
def hiNibble (b : Byte) : Nibble := b.extractLsb' 4 4

/-- `b[3:0]` (R84). -/
def loNibble (b : Byte) : Nibble := b.extractLsb' 0 4

/-- `CMD_FUNCTION_SET`, 4-bit interface, 2 lines, 5×8 font (R87). -/
def cmdFunctionSet : Byte := 0x28

/-- Display on, cursor off, blink off (R87). -/
def cmdDisplayControl : Byte := 0x0C

/-- Clear (R87). -/
def cmdClear : Byte := 0x01

/-- Increment cursor, no display shift (R87). -/
def cmdEntryMode : Byte := 0x06

/-- `CMD_HOME` (R12, R87). -/
def cmdHome : Byte := 0x02

/-- `CMD_ROW1` (R12, R87). -/
def cmdRow1 : Byte := 0xC0

/-- `T_EN_HOLD`, 1 µs (R134). -/
def tEnHold : Nat := 1_000

/-- `T_NIB_HOLD`, 50 µs (R134). -/
def tNibHold : Nat := 50_000

/-- `T_POWER`, 50 ms (R134). -/
def tPower : Nat := 50_000_000

/-- `T_INIT_FIRST`, 5 ms (R134). -/
def tInitFirst : Nat := 5_000_000

/-- `T_INIT_NEXT`, 1 ms (R134). -/
def tInitNext : Nat := 1_000_000

/-- `T_4BIT`, 1 ms (R134). -/
def t4Bit : Nat := 1_000_000

/-- `T_CMD`, 1 ms (R134). -/
def tCmd : Nat := 1_000_000

/-- `T_CLEAR`, 2 ms (R134). -/
def tClear : Nat := 2_000_000

/-- `T_HOME`, 2 ms (R134). -/
def tHome : Nat := 2_000_000

/-- `T_ROW1`, 1 ms (R134). -/
def tRow1 : Nat := 1_000_000

/-- `NIB(v, rs)` (R150). -/
def nibProg (v : Nibble) (rs : Bool) : List MicroOp :=
  [.tx v rs true, .wait tEnHold, .tx v rs false, .wait tNibHold]

/-- `BYTE(b, rs)`: the high nibble, then the low (R153). -/
def byteProg (b : Byte) (rs : Bool) : List MicroOp := nibProg (hiNibble b) rs ++ nibProg (loNibble b) rs

/-- `INIT_PROG` (R180). -/
def initProg : List MicroOp :=
  [.wait tPower]
    ++ nibProg 0x3 false ++ [.wait tInitFirst]
    ++ nibProg 0x3 false ++ [.wait tInitNext]
    ++ nibProg 0x3 false ++ [.wait tInitNext]
    ++ nibProg 0x2 false ++ [.wait t4Bit]
    ++ byteProg cmdFunctionSet false ++ [.wait tCmd]
    ++ byteProg cmdDisplayControl false ++ [.wait tCmd]
    ++ byteProg cmdClear false ++ [.wait tClear]
    ++ byteProg cmdEntryMode false ++ [.wait tCmd]

/-- `effectiveLength = min(length, 32)` (R211). -/
def effLen (len : Word7) : Nat := min len.toNat Config.renderMax

/-- The data part of `WB_PROG` from index `i` on (R215), with the row change before index 16 (R216). -/
def wbData : Nat → List Byte → List MicroOp
  | _, [] => []
  | i, b :: bs =>
    (if i = 16 then byteProg cmdRow1 false ++ [.wait tRow1] else []) ++ byteProg b true ++ wbData (i + 1) bs

/-- `WB_PROG(len, buf)` (R210, R212). -/
def wbProg (len : Word7) (buf : List Byte) : List MicroOp :=
  if len = 0 then []
  else
    byteProg cmdClear false ++ [.wait tClear] ++ byteProg cmdHome false ++ [.wait tHome]
      ++ wbData 0 (buf.take (effLen len))

/-- `DETACH_PROG` (R254). -/
def detachProg : List MicroOp := byteProg cmdClear false

/-- The bytes of a request that are latched at issue: indices 0..min(len,32)-1 of `DATA` (R26, R250). -/
def latched (len : Word7) (data : Vector Byte 64) : List Byte := data.toList.take (effLen len)

/-- The micro-program that each NIB5 and LCD9 instruction names (R150, R153 to R167), and the one transaction of each
PORT8 instruction (R83). A request descriptor names none: its operation's program is built when it starts (R27). -/
def expand : Instr → List MicroOp
  | .idle | .attach _ | .write _ | .detach => []
  | .portEnHi d _ rs => [.tx d rs true]
  | .portEnLo d _ rs => [.tx d rs false]
  | .initNib3 => nibProg 0x3 false
  | .initNib2 => nibProg 0x2 false
  | .functionSet => byteProg cmdFunctionSet false
  | .displayControl => byteProg cmdDisplayControl false
  | .clear => byteProg cmdClear false
  | .entryModeSet => byteProg cmdEntryMode false
  | .home => byteProg cmdHome false
  | .setDdramRow1 => byteProg cmdRow1 false
  | .data b => byteProg b true

end Sys2Proof.Machine
end

