-- ==== Sys2Proof/Machine/Fsm.lean ====
section
/-! DEFINITION. The nested FSM counters of spec/10_state.md R28, stepped as spec/42_nibble_command.md R151 and
spec/43_init_sequencer.md R191 say: which micro-operation they issue, and what they become when it completes. `prog`
and `upc` are what the sequencer runs; the counters follow them (R28). -/

namespace Sys2Proof.Machine

/-- The operation that runs, as `life` says (R21). -/
inductive Operation where
  | init
  | write
  | detach
  deriving DecidableEq, Repr

/-- R21: which operation runs in each lifecycle state. -/
def Life.operation : Life → Option Operation
  | .attaching => some .init
  | .writing => some .write
  | .detaching => some .detach
  | .detached | .ready => none

/-- The raw nibble of a step of the InitSequencer (R182, R183). -/
def InitStep.nibble : InitStep → Option Nibble
  | .n3a | .n3b | .n3c => some 0x3
  | .n2 => some 0x2
  | .power | .fset | .dctl | .clear | .entry | .done => none

/-- The command byte of a step of the InitSequencer (R184 to R187). -/
def InitStep.byte : InitStep → Option Byte
  | .fset => some cmdFunctionSet
  | .dctl => some cmdDisplayControl
  | .clear => some cmdClear
  | .entry => some cmdEntryMode
  | .power | .n3a | .n3b | .n3c | .n2 | .done => none

/-- The wait that ends a step of the InitSequencer (R180, R191). -/
def InitStep.stepWait : InitStep → Option Nat
  | .power => some tPower
  | .n3a => some tInitFirst
  | .n3b | .n3c => some tInitNext
  | .n2 => some t4Bit
  | .fset | .dctl | .entry => some tCmd
  | .clear => some tClear
  | .done => none

/-- R191: each state moves to the next. -/
def InitStep.next : InitStep → InitStep
  | .power => .n3a
  | .n3a => .n3b
  | .n3b => .n3c
  | .n3c => .n2
  | .n2 => .fset
  | .fset => .dctl
  | .dctl => .clear
  | .clear => .entry
  | .entry => .done
  | .done => .done

/-- R151 `N_IDLE`: on start, latch the nibble and its RS and go to `N_TX_HI`. -/
def Fsm.startNib (v : Nibble) (rs : Bool) (f : Fsm) : Fsm := { f with nibPhase := .txHi, nibVal := v, nibRs := rs }

/-- Start a byte at its high nibble (R153). -/
def Fsm.startByte (b : Byte) (rs : Bool) (f : Fsm) : Fsm := { (f.startNib (hiNibble b) rs) with byteHalf := false }

/-- Enter a step of the InitSequencer (R191). -/
def Fsm.enterInit (st : InitStep) (f : Fsm) : Fsm :=
  let f := { f with initStep := st, nibPhase := .idle }
  match st.nibble, st.byte with
  | some v, _ => f.startNib v false
  | none, some b => f.startByte b false
  | none, none => f

/-- Start the data byte of index `wb_i` (R215). -/
def Fsm.enterData (buf : List Byte) (f : Fsm) : Fsm :=
  { f with wbStep := .data }.startByte (buf.getD f.wbI.toNat 0) true

/-- The byte being sent and its RS, where a byte is being sent. -/
def Fsm.sending (op : Option Operation) (buf : List Byte) (f : Fsm) : Option (Byte × Bool) :=
  match op with
  | some .init => f.initStep.byte.map (·, false)
  | some .write =>
    match f.wbStep with
    | .clear => some (cmdClear, false)
    | .home => some (cmdHome, false)
    | .row1 => some (cmdRow1, false)
    | .data => some (buf.getD f.wbI.toNat 0, true)
    | .done => none
  | some .detach => some (cmdClear, false)
  | none => none

/-- A byte is done: a data byte is followed by the next index, the row change or the end (R215, R216); every other byte
by its step's wait or the end. DESIGN CHOICE (assumption log 21, safe for what is issued): between two bytes that follow
each other `N_IDLE` (R151) takes no time, so `nib_phase` goes from `N_HOLD_LO` to the `N_TX_HI` of the next byte in one
step. -/
def Fsm.byteDone (op : Option Operation) (buf : List Byte) (f : Fsm) : Fsm :=
  if op = some .write ∧ f.wbStep = .data then
    let f := { f with wbI := f.wbI + 1 }
    if f.wbI = f.wbEff then { f with wbStep := .done, nibPhase := .idle }
    else if f.wbI = 16 then { f with wbStep := .row1 }.startByte cmdRow1 false
    else f.enterData buf
  else { f with nibPhase := .idle }

/-- A nibble is done (R151): the low half follows the high half (R153), and a raw nibble ends here. DESIGN CHOICE
(assumption log 21, safe for what is issued): between the halves `N_IDLE` takes no time, so `nib_phase` goes from
`N_HOLD_LO` to `N_TX_HI` in one step; how long it rests in `N_IDLE` between nibbles that follow each other is open in
R151. -/
def Fsm.nibDone (op : Option Operation) (buf : List Byte) (f : Fsm) : Fsm :=
  match f.sending op buf with
  | some (b, rs) =>
    if f.byteHalf then f.byteDone op buf else { (f.startNib (loNibble b) rs) with byteHalf := true }
  | none => { f with nibPhase := .idle }

/-- The wait that ends a step is done. -/
def Fsm.stepDone (op : Option Operation) (buf : List Byte) (f : Fsm) : Fsm :=
  match op with
  | some .init => f.enterInit f.initStep.next
  | some .write =>
    match f.wbStep with
    | .clear => { f with wbStep := .home }.startByte cmdHome false
    | .home | .row1 => f.enterData buf
    | .data | .done => f
  | some .detach | none => f

/-- The registers after a micro-operation has completed with success (R151). -/
def Fsm.after (op : Option Operation) (buf : List Byte) (m : MicroOp) (f : Fsm) : Fsm :=
  match m with
  | .tx v rs true => { f with nibVal := v, nibRs := rs, nibPhase := .holdHi }
  | .tx v rs false => { f with nibVal := v, nibRs := rs, nibPhase := .holdLo }
  | .wait _ =>
    match f.nibPhase with
    | .holdHi => { f with nibPhase := .txLo }
    | .holdLo => f.nibDone op buf
    | .idle => f.stepDone op buf
    | .txHi | .txLo => f

/-- The wait that follows when no nibble is being written. -/
def Fsm.stepWait (op : Option Operation) (f : Fsm) : Option Nat :=
  match op with
  | some .init => f.initStep.stepWait
  | some .write =>
    match f.wbStep with
    | .clear => some tClear
    | .home => some tHome
    | .row1 => some tRow1
    | .data | .done => none
  | some .detach | none => none

/-- The micro-operation the registers issue next; none when the operation is at its end (R151, R191). -/
def Fsm.microOp (op : Option Operation) (f : Fsm) : Option MicroOp :=
  match f.nibPhase with
  | .txHi => some (.tx f.nibVal f.nibRs true)
  | .holdHi => some (.wait tEnHold)
  | .txLo => some (.tx f.nibVal f.nibRs false)
  | .holdLo => some (.wait tNibHold)
  | .idle => (f.stepWait op).map .wait

/-- The registers when INIT_PROG starts (R191 `S_POWER`). -/
def Fsm.startInit (f : Fsm) : Fsm := f.enterInit .power

/-- The registers when WB_PROG starts: `wb_step`, `wb_i` and `wb_eff` are written, and the Clear begins (R210). -/
def Fsm.startWrite (len : Word7) (f : Fsm) : Fsm :=
  { f with wbStep := .clear, wbI := 0, wbEff := BitVec.ofNat 6 (effLen len) }.startByte cmdClear false

/-- The registers when DETACH_PROG starts (R254). -/
def Fsm.startDetach (f : Fsm) : Fsm := f.startByte cmdClear false

/-- The micro-operations the registers issue from here on, at most `n` of them. -/
def Fsm.trace (op : Option Operation) (buf : List Byte) : Nat → Fsm → List MicroOp
  | 0, _ => []
  | n + 1, f =>
    match f.microOp op with
    | none => []
    | some m => m :: Fsm.trace op buf n (f.after op buf m)

end Sys2Proof.Machine
end

