-- ==== Sys2Proof/Machine/Lcd.lean ====
section
/-! DEFINITION. The LCD reference state (spec/20_memory.md R64 to R70): what the completed sequences of the block do to
`lcd`, and when it becomes UNKNOWN. The block never reads it. -/

namespace Sys2Proof.Machine

/-- The configuration INIT_PROG sets (R64, R65). -/
def LcdCfg.init : LcdCfg where
  fourBit := true
  twoLines := true
  font5x8 := true
  displayOn := true
  cursorOn := false
  blinkOn := false
  increment := true
  displayShift := false

/-- Every cell BLANK. -/
def blankCells : Vector (Vector LcdCell 16) 2 := Vector.replicate 2 (Vector.replicate 16 .blank)

/-- R65: the LCD after INIT_PROG, whatever it was before. -/
def LcdRec.init : LcdRec where
  cfg := .init
  cells := blankCells
  row := 0
  col := 0

/-- R66: Clear and its wait. -/
def Lcd.cleared : Lcd → Lcd
  | .unknown => .unknown
  | .known r => .known { r with cells := blankCells, row := 0, col := 0 }

/-- R67: Home and its wait. -/
def Lcd.homed : Lcd → Lcd
  | .unknown => .unknown
  | .known r => .known { r with row := 0, col := 0 }

/-- R68: the row-1 address-set and its wait. -/
def Lcd.atRow1 : Lcd → Lcd
  | .unknown => .unknown
  | .known r => .known { r with row := 1, col := 0 }

/-- R69: a data byte. At column 16 the LCD becomes UNKNOWN. -/
def Lcd.wrote (b : Byte) : Lcd → Lcd
  | .unknown => .unknown
  | .known r =>
    if h : r.col.val < 16 then
      .known { r with
        cells := r.cells.set r.row (r.cells[r.row].set r.col.val (.code b) h)
        col := ⟨r.col.val + 1, by omega⟩ }
    else .unknown

/-- The sequence of R66. -/
def clearSeq : List MicroOp := byteProg cmdClear false ++ [.wait tClear]

/-- The sequence of R67. -/
def homeSeq : List MicroOp := byteProg cmdHome false ++ [.wait tHome]

/-- The sequence of R68. -/
def row1Seq : List MicroOp := byteProg cmdRow1 false ++ [.wait tRow1]

/-- The nibble a micro-operation presents. -/
def MicroOp.nibble : MicroOp → Nibble
  | .tx v _ _ => v
  | .wait _ => 0

/-- The byte that a sequence of R69 with these micro-operations sends: its high nibble stands in the first, its low
nibble in the fifth. -/
def trailByte (t : List MicroOp) : Byte := ((t[0]?.map MicroOp.nibble).getD 0) ++ ((t[4]?.map MicroOp.nibble).getD 0)

/-- The sequence of R69 that these micro-operations begin, if any does. -/
def dataSeq (t : List MicroOp) : List MicroOp := byteProg (trailByte t) true

/-- Whether the micro-operations begin one of the sequences of R65 to R69. -/
def beginsSeq (t : List MicroOp) : Bool :=
  t.isPrefixOf initProg || t.isPrefixOf clearSeq || t.isPrefixOf homeSeq || t.isPrefixOf row1Seq
    || t.isPrefixOf (dataSeq t)

/-- R65 to R70: `lcd` and the trail when a micro-operation completes with success. A completed sequence has its effect; a
sequence still under way has none yet; any other makes the LCD UNKNOWN. A wait by itself does nothing. -/
def lcdAfter (m : MicroOp) (lcd : Lcd) (trail : List MicroOp) : Lcd × List MicroOp :=
  let t := trail ++ [m]
  if t = initProg then (.known .init, [])
  else if t = clearSeq then (lcd.cleared, [])
  else if t = homeSeq then (lcd.homed, [])
  else if t = row1Seq then (lcd.atRow1, [])
  else if t = dataSeq t then (lcd.wrote (trailByte t), [])
  else if beginsSeq t then (lcd, t)
  else
    match trail, m with
    | [], .wait _ => (lcd, [])
    | _, _ => (.unknown, [])

/-- R70: an operation that ends with a sequence under way leaves the LCD UNKNOWN. -/
def lcdAtEnd (lcd : Lcd) (trail : List MicroOp) : Lcd :=
  match trail with
  | [] => lcd
  | _ :: _ => .unknown

end Sys2Proof.Machine
end

