-- ==== Sys2Proof/Machine/Ops.lean ====
section
/-! DEFINITION. The named operations of the machine: the draws, the transaction and the wait, the run of a
micro-program, the abort (the block's one exception mechanism, spec/60_exceptions.md R273) and the ends of the
operations beside it, the grant, and the refusals. -/

namespace Sys2Proof.Machine

/-! ### Draws (assumption log 1) -/

/-- The next value of a source: the script's, or a free value. -/
def Draws.head {α : Type} (free : Nat → α) (d : Draws α) : α :=
  match d.script with
  | [] => free d.used
  | a :: _ => a

/-- The source after its next value has been taken. -/
def Draws.tail {α : Type} (d : Draws α) : Draws α :=
  match d.script with
  | [] => { d with used := d.used + 1 }
  | _ :: l => { d with script := l }

/-- The turn of the next step. -/
def State.nextTurn (s : State) : Turn := s.env.turns.head Config.freeTurn

/-- The adapter's draws for the next transaction. -/
def State.nextTx (s : State) : TxDraw := s.env.txs.head Config.freeTx

/-- `t_over` of the next wait to end. -/
def State.nextOver (s : State) : Nat := s.env.overs.head Config.freeOver

/-- The next choice among waiters. -/
def State.nextPick (s : State) : Nat := s.env.picks.head Config.freePick

/-- The state with its turn taken. -/
def State.dropTurn (s : State) : State := { s with env := { s.env with turns := s.env.turns.tail } }

/-- Change the instance in focus. -/
def State.mapInst (f : Inst → Inst) (s : State) : State := { s with inst := f s.inst }

/-! ### The transaction and the wait -/

/-- The time at which the next transaction, issued now, is done: `t_tx > 0` (R115). -/
def State.txDone (s : State) : Nat := s.now + (s.nextTx.txTimeLess1 + 1)

/-- R112, R113: the port latch after a transaction. -/
def latchAfter (img : Byte) : TxStatus → PortLatch
  | .ok => .image img
  | .err _ => .unknown

/-- `MemWrite(addr, 1, img)` (R16, R110): one bus transaction, recorded in `hist`. -/
def transmit (addr : Word7) (img : Byte) (s : State) : State :=
  { s with
    now := s.txDone
    env := { s.env with txs := s.env.txs.tail }
    inst := { s.inst with
      hist := s.inst.hist ++ [.tx s.now s.txDone addr img s.nextTx.status]
      portLatch := latchAfter img s.nextTx.status } }

/-- A micro-operation has completed with success: `upc` increases by exactly 1 (R27), the FSM registers follow (R28), and
the LCD reference state sees it (R65 to R70). -/
def Inst.advance (m : MicroOp) (i : Inst) : Inst :=
  { i with
    seq := i.seq.map (fun q => { q with upc := q.upc + 1 })
    fsm := i.fsm.after i.life.operation ((i.cur.map Cur.buf).getD []) m
    lcd := (lcdAfter m i.lcd i.trail).1
    trail := (lcdAfter m i.lcd i.trail).2 }

/-- R130: a wait begins now. -/
def startWait (t : Nat) (s : State) : State := s.mapInst fun i => { i with dly := .running t s.now }

/-- R130: the end of a wait of at least `t` begun at `tStart`, with its excess `t_over`. -/
def State.waitEnd (s : State) (t tStart : Nat) : Nat := max s.now (tStart + t) + s.nextOver

/-- R130: the wait in progress ends. -/
def finishWait (s : State) : State :=
  match s.inst.dly with
  | .idle => s
  | .running t tStart =>
    { s with
      now := s.waitEnd t tStart
      env := { s.env with overs := s.env.overs.tail }
      inst := Inst.advance (.wait t) { s.inst with
        dly := .idle
        hist := s.inst.hist ++ [.wait tStart (s.waitEnd t tStart) t] } }

/-- A whole wait that begins now. -/
def waitWhole (t : Nat) (s : State) : State := finishWait (startWait t s)

/-- The turn of a wait at `upc` is its end: it has been running since the micro-operation before it completed (R131). Were
none running, which `Inst.DelayOk` rules out, it would begin now. -/
def waitTurn (t : Nat) (s : State) : State :=
  match s.inst.dly with
  | .idle => waitWhole t s
  | .running _ _ => finishWait s

/-! ### The ends of the operations -/

/-- R38: the context and all that belongs to it is gone. -/
def Inst.destroyCtx (i : Inst) : Inst :=
  { i with
    life := .detached
    lock := .free
    ctx := none
    cur := none
    seq := none
    fsm := Fsm.reset
    dly := .idle
    opCaller := none }

/-- R246, R248: ATTACH ends with an error. -/
def Inst.failAttach (r : Result) (i : Inst) : Inst := { i.destroyCtx with attachResult := some r.word }

/-- R249: ATTACH ends with success. -/
def Inst.endAttach (i : Inst) : Inst :=
  { i with life := .ready, lock := .free, seq := none, opCaller := none, attachResult := some (Result.ok 0).word }

/-- R252: a WRITE ends, with success or failure. -/
def Inst.endWrite (r : Result) (i : Inst) : Inst :=
  { i with
    result := (match i.cur with | none => i.result | some c => assocPut c.caller r.word i.result)
    cur := none
    seq := none
    life := .ready
    lock := .free }

/-- R254: DETACH ends; its result is OK even when the Clear failed. -/
def Inst.endDetach (i : Inst) : Inst :=
  { i.destroyCtx with
    result := (match i.opCaller with | none => i.result | some c => assocPut c (Result.ok 0).word i.result) }

/-- R70: the LCD at the end of an operation. -/
def Inst.closeTrail (i : Inst) : Inst := { i with lcd := lcdAtEnd i.lcd i.trail, trail := [] }

/-- R70: the LCD after a failed transaction, or a sequence that no rule covers. -/
def Inst.loseLcd (i : Inst) : Inst := { i with lcd := .unknown, trail := [] }

/-- THE EXCEPTION OF THE BLOCK (R273): a transaction has returned `ERR(kind)`. `upc` does not advance, no later
micro-operation runs, and the operation completes as its own rule says: ATTACH by R246, WRITE by R252, DETACH by R254.
There is no handler and no return from it (R276, R277). -/
def Inst.abort (kind : TxKind) (i : Inst) : Inst :=
  match i.life with
  | .attaching => i.loseLcd.failAttach (.transportError kind)
  | .writing => i.loseLcd.endWrite (.transportError kind)
  | .detaching => i.loseLcd.endDetach
  | .detached | .ready => { i.loseLcd with seq := none }

/-- The length that a WRITE reports (R217). -/
def Inst.curLen (i : Inst) : Word7 := (i.cur.map Cur.len).getD 0

/-- The normal end of an operation (R27), when `upc = length(prog)`: a WRITE (R223, R252) and a DETACH (R254) complete at
that point; an ATTACH waits for `REG_OK` (R247). -/
def Inst.complete (i : Inst) : Inst :=
  match i.life with
  | .writing => i.closeTrail.endWrite (.ok i.curLen)
  | .detaching => i.closeTrail.endDetach
  | .attaching | .detached | .ready => i

/-- Whether the micro-program is at its end (R27). -/
def Inst.atEnd (i : Inst) : Bool :=
  match i.seq with
  | none => false
  | some q => decide (q.prog.length ≤ q.upc)

/-- The wait at `upc`, where one stands there. -/
def Inst.waitHere (i : Inst) : Option Nat :=
  match i.seq with
  | none => none
  | some q =>
    match q.prog[q.upc]? with
    | some (.wait t) => some t
    | some (.tx _ _ _) => none
    | none => none

/-- R131: a wait at `upc` starts when the micro-operation before it completes, which is now. -/
def Inst.beginWait (now : Nat) (i : Inst) : Inst :=
  match i.dly, i.waitHere with
  | .idle, some t => { i with dly := .running t now }
  | .idle, none => i
  | .running _ _, _ => i

/-- What happens at the moment a micro-operation completes: the normal end of the operation where it is reached, else the
start of the wait that follows (R131). -/
def State.settle (s : State) : State :=
  if s.inst.atEnd then s.mapInst Inst.complete else s.mapInst (Inst.beginWait s.now)

/-! ### Running micro-programs -/

/-- How a run of micro-operations stands: it goes on, or it was aborted and its operation has ended. -/
inductive Ran where
  | ok (s : State)
  | aborted (s : State)
  deriving DecidableEq, Repr

/-- `Tx(img)` as the micro-operation `m` (R110, R112, R113). -/
def txMicro (addr : Word7) (img : Byte) (m : MicroOp) (s : State) : Ran :=
  match s.nextTx.status with
  | .ok => .ok ((transmit addr img s).mapInst (Inst.advance m))
  | .err kind => .aborted ((transmit addr img s).mapInst (Inst.abort kind))

/-- One micro-operation under a context; the image is built here from `ctx.backlight` (R157). -/
def runMicro (c : Ctx) (m : MicroOp) (s : State) : Ran :=
  match m with
  | .tx v rs en => txMicro c.addr (image v rs c.backlight en) m s
  | .wait t => .ok (waitWhole t s)

/-- A micro-program in list order; the first failed transaction stops it (R18, R273). -/
def runMicros (c : Ctx) : List MicroOp → State → Ran
  | [], s => .ok s
  | m :: ms, s =>
    match runMicro c m s with
    | .ok s' => runMicros c ms s'
    | .aborted s' => .aborted s'

/-- The state a run ends in, with what happens at the moment its last micro-operation completes. -/
def Ran.finish : Ran → State
  | .ok s => s.settle
  | .aborted s => s

/-- Run under the running operation's context; where no operation runs, there is no context to read (R22). -/
def underOperation (s : State) (run : Ctx → Ran) : Host.Outcome State Fault Refusal :=
  match s.inst.ctx, s.inst.seq with
  | some c, some _ => .next (run c).finish
  | some _, none => .fault .noOperation
  | none, _ => .fault .noOperation

/-- The meaning of an instruction that names a micro-program. -/
def execProgram (ms : List MicroOp) (s : State) : Host.Outcome State Fault Refusal :=
  underOperation s fun c => runMicros c ms s

/-- The meaning of an instruction that is one transaction with the image given. -/
def execImage (img : Byte) (m : MicroOp) (s : State) : Host.Outcome State Fault Refusal :=
  underOperation s fun c => txMicro c.addr img m s

/-! ### Starting operations -/

/-- R244, R245: the context is created and INIT_PROG starts, and with it its first wait, which counts from this point
(R181, R305). -/
def Inst.startAttach (addr : Word7) (caller now : Nat) (i : Inst) : Inst :=
  { i with
    ctx := some ⟨addr, true⟩
    life := .attaching
    lock := .held
    opCaller := some caller
    seq := some ⟨initProg, 0⟩
    fsm := i.fsm.startInit
    dly := .running tPower now
    trail := [] }

/-- R254: DETACH_PROG starts. -/
def Inst.startDetach (caller : Nat) (i : Inst) : Inst :=
  { i with
    life := .detaching
    lock := .held
    opCaller := some caller
    seq := some ⟨detachProg, 0⟩
    fsm := i.fsm.startDetach
    trail := [] }

/-- R251: the waiter of an index is granted, and WB_PROG starts. -/
def Inst.grant (k : Nat) (i : Inst) : Inst :=
  match i.waiters[k]? with
  | none => i
  | some (caller, w) =>
    { i with
      waiters := i.waiters.eraseIdx k
      cur := some ⟨caller, w.len, w.buf⟩
      life := .writing
      lock := .held
      seq := some ⟨wbProg w.len w.buf, 0⟩
      fsm := i.fsm.startWrite w.len
      trail := [] }

/-- R251: the block grants one waiter; which one is left open, and every waiter is some pick's. -/
def grantTurn (s : State) : State :=
  { s with
    env := { s.env with picks := s.env.picks.tail }
    inst := s.inst.grant (s.nextPick % s.inst.waiters.length) }

/-- R247 to R249: the outcome of the registration ends the ATTACH. -/
def Inst.endRegistration (ok : Bool) (i : Inst) : Inst :=
  if ok then i.closeTrail.endAttach else i.closeTrail.failAttach .registrationError

/-- R247: the host supplies `REG_OK`. An ATTACH whose INIT_PROG is at its end waits for it; where none does, the input is
not read (assumption log 11). -/
def registerTurn (ok : Bool) (s : State) : State :=
  if s.inst.life = .attaching ∧ s.inst.atEnd then s.mapInst (Inst.endRegistration ok) else s

/-! ### Requests -/

/-- R240: a caller has an outstanding request. -/
def Inst.outstanding (caller : Nat) (i : Inst) : Bool :=
  (assocGet caller i.waiters).isSome || i.cur.map Cur.caller == some caller || i.opCaller == some caller

/-- The result word that a caller sees (R30): none while its request has not completed (log 13). -/
def Inst.resultOf (caller : Nat) (i : Inst) : Option Word16 :=
  if i.outstanding caller then none else assocGet caller i.result

/-- R241, R258 F3: another live instance on the bus holds the address. -/
def State.peerHolds (addr : Word7) (s : State) : Bool := s.peers.any fun p => p.ctx.map Ctx.addr == some addr

/-- Refuse an event by its row (R258). -/
def State.refuse (row : RefusalRow) (s : State) : State := s.mapInst (Inst.refuse row)

/-- R300, R302: there is a reset only at the start of a run, where every piece of the instance's state is at its reset
value, and stays so; any other reset is a refused event (assumption log 9). -/
def State.resetEvent (s : State) : State := if s.inst = Inst.reset then s else s.refuse .resetWithinRun

/-- Time passes (R60, R138). -/
def State.pass (dt : Nat) (s : State) : State := { s with now := s.now + dt }

/-- Another instance comes into focus (R20, R60): no instance changes. -/
def State.focus (k : Nat) (s : State) : State :=
  match s.peers[k]? with
  | none => s
  | some p => { s with inst := p, peers := s.peers.set k s.inst }

end Sys2Proof.Machine
end

