-- ==== Sys2Proof/Machine/Command.lean ====
section
/-! DEFINITION. The six commands and the data byte (spec/42_nibble_command.md R154, R155, R159 to R165). -/

namespace Sys2Proof.Machine

/-- `sendCommand(b) = BYTE(b, 0)` (R154). -/
def sendCommand (b : Byte) (s : State) : Host.Outcome State Fault Refusal := execProgram (byteProg b false) s

/-- `sendData(b) = BYTE(b, 1)` (R155). -/
def sendData (b : Byte) (s : State) : Host.Outcome State Fault Refusal := execProgram (byteProg b true) s

/-- `FUNCTION_SET` (R163). -/
def execFunctionSet (s : State) : Host.Outcome State Fault Refusal := sendCommand cmdFunctionSet s

/-- `DISPLAY_CONTROL` (R162). -/
def execDisplayControl (s : State) : Host.Outcome State Fault Refusal := sendCommand cmdDisplayControl s

/-- `CLEAR` (R159). -/
def execClear (s : State) : Host.Outcome State Fault Refusal := sendCommand cmdClear s

/-- `ENTRY_MODE_SET` (R161). -/
def execEntryModeSet (s : State) : Host.Outcome State Fault Refusal := sendCommand cmdEntryMode s

/-- `HOME` (R160). -/
def execHome (s : State) : Host.Outcome State Fault Refusal := sendCommand cmdHome s

/-- `SET_DDRAM_ROW1` (R164). -/
def execSetDdramRow1 (s : State) : Host.Outcome State Fault Refusal := sendCommand cmdRow1 s

/-- `DATA b` (R165). -/
def execData (b : Byte) (s : State) : Host.Outcome State Fault Refusal := sendData b s

end Sys2Proof.Machine
end

