-- ==== Sys2Proof/Machine/Nibble.lean ====
section
/-! DEFINITION. The two raw nibbles of the InitSequencer (spec/42_nibble_command.md R166, R167). -/

namespace Sys2Proof.Machine

/-- `INIT_NIB_3` (R166): `NIB(0x3, 0)`. -/
def execInitNib3 (s : State) : Host.Outcome State Fault Refusal := execProgram (nibProg 0x3 false) s

/-- `INIT_NIB_2` (R167): `NIB(0x2, 0)`. -/
def execInitNib2 (s : State) : Host.Outcome State Fault Refusal := execProgram (nibProg 0x2 false) s

end Sys2Proof.Machine
end

