-- ==== Sys2Proof/Machine/Port.lean ====
section
/-! DEFINITION. The two PORT8 instructions: one transaction each (spec/40_transport.md R110, spec/30_encoding.md R83). -/

namespace Sys2Proof.Machine

/-- `PORT_EN_HI` (R83, R150): the image with EN = 1 presents the nibble. -/
def execPortEnHi (d : Nibble) (bl rs : Bool) (s : State) : Host.Outcome State Fault Refusal :=
  execImage (image d rs bl true) (.tx d rs true) s

/-- `PORT_EN_LO` (R83, R150): the image with EN = 0 latches the nibble. -/
def execPortEnLo (d : Nibble) (bl rs : Bool) (s : State) : Host.Outcome State Fault Refusal :=
  execImage (image d rs bl false) (.tx d rs false) s

end Sys2Proof.Machine
end

