-- ==== Sys2Proof/Machine/Request.lean ====
section
/-! DEFINITION. The four REQ16 instructions (spec/45_lifecycle.md R240 to R259): when the block accepts a request, what
it starts, and the refusal table. The side inputs of a request stand on the request lines, `port`. -/

namespace Sys2Proof.Machine

/-- `IDLE` (R259): no request. It changes no state and produces no result. -/
def execIdle (s : State) : Host.Outcome State Fault Refusal := .next s

/-- The issue of an ATTACH (R241): refused by F2 or F3; else the capability check (R242), the allocation (R243), and the
start of INIT_PROG with its first wait (R244, R245). The rest of the operation is run by the steps that follow. -/
def issueAttach (addr : Word7) (s : State) : State :=
  if s.inst.life ≠ .detached then s.refuse .f2
  else if s.peerHolds addr then s.refuse .f3
  else if !s.port.capOk then s.mapInst fun i => { i with attachResult := some Result.capabilityError.word }
  else if !s.port.allocOk then s.mapInst fun i => { i with attachResult := some Result.allocationError.word }
  else s.mapInst (Inst.startAttach addr s.port.caller s.now)

/-- `ATTACH` (R241). -/
def execAttach (addr : Word7) (s : State) : Host.Outcome State Fault Refusal := .next (issueAttach addr s)

/-- The issue of a WRITE (R250): refused by F1, F4 or F5; a zero length completes at once (R212); else the caller blocks
with its bytes latched (R25, R26). -/
def issueWrite (len : Word7) (s : State) : State :=
  if Config.maxReqLen < len.toNat then s.refuse .f1
  else if s.inst.life ≠ .ready ∧ s.inst.life ≠ .writing then s.refuse .f4
  else if s.inst.outstanding s.port.caller then s.refuse .f5
  else if len = 0 then
    s.mapInst fun i => { i with result := assocPut s.port.caller (Result.ok 0).word i.result }
  else
    s.mapInst fun i => { i with waiters := assocPut s.port.caller ⟨len, latched len s.port.data⟩ i.waiters }

/-- `WRITE` (R250). -/
def execWrite (len : Word7) (s : State) : Host.Outcome State Fault Refusal := .next (issueWrite len s)

/-- The issue of a DETACH (R254): refused by F6 or F7; else DETACH_PROG starts. -/
def issueDetach (s : State) : State :=
  if s.inst.life ≠ .ready then s.refuse .f6
  else if s.inst.waiters ≠ [] then s.refuse .f7
  else s.mapInst (Inst.startDetach s.port.caller)

/-- `DETACH` (R254). -/
def execDetach (s : State) : Host.Outcome State Fault Refusal := .next (issueDetach s)

end Sys2Proof.Machine
end

