-- ==== Sys2Proof/Machine/Dispatch.lean ====
section
/-! DEFINITION. The meaning of every instruction of the opcode table, one arm per constructor. -/

namespace Sys2Proof.Machine

def exec (i : Instr) (s : State) : Host.Outcome State Fault Refusal :=
  match i with
  | .idle => Sys2Proof.Machine.execIdle s
  | .attach addr => Sys2Proof.Machine.execAttach addr s
  | .write len => Sys2Proof.Machine.execWrite len s
  | .detach => Sys2Proof.Machine.execDetach s
  | .portEnHi d bl rs => Sys2Proof.Machine.execPortEnHi d bl rs s
  | .portEnLo d bl rs => Sys2Proof.Machine.execPortEnLo d bl rs s
  | .initNib3 => Sys2Proof.Machine.execInitNib3 s
  | .initNib2 => Sys2Proof.Machine.execInitNib2 s
  | .functionSet => Sys2Proof.Machine.execFunctionSet s
  | .displayControl => Sys2Proof.Machine.execDisplayControl s
  | .clear => Sys2Proof.Machine.execClear s
  | .entryModeSet => Sys2Proof.Machine.execEntryModeSet s
  | .home => Sys2Proof.Machine.execHome s
  | .setDdramRow1 => Sys2Proof.Machine.execSetDdramRow1 s
  | .data b => Sys2Proof.Machine.execData b s

end Sys2Proof.Machine
end

