-- ==== Sys2Proof/Machine/Fetch.lean ====
section
/-! DEFINITION. What the block does next on its own: which micro-operation, and which instruction of the opcode table,
stands at `upc` (spec/10_state.md R27, spec/30_encoding.md R92, R97). -/

namespace Sys2Proof.Machine

/-- The NIB5 word of the nibble write that begins a micro-program, and what follows it (R85, R150). -/
def nibAt : List MicroOp → Option (Bool × Nibble × List MicroOp)
  | .tx v rs true :: l => if l.take 3 = (nibProg v rs).tail then some (rs, v, l.drop 3) else none
  | .tx _ _ false :: _ => none
  | .wait _ :: _ => none
  | [] => none

/-- The instruction of the opcode table, larger than one transaction, that begins a micro-program: a byte where two
nibble writes with one RS follow each other, else a raw nibble. -/
def wholeAt (l : List MicroOp) : Option Instr :=
  match nibAt l with
  | none => none
  | some (rs, hi, l') =>
    match nibAt l' with
    | none => (decodeNib5 (nib5 rs hi)).toOption
    | some (rs', lo, _) => if rs = rs' then (decodeLcd9 (lcd9 rs (hi ++ lo))).toOption else none

/-- The micro-operations of what begins a micro-program: of an instruction, or of a wait by itself. -/
def wholeLen (l : List MicroOp) : Nat :=
  match wholeAt l with
  | some i => (expand i).length
  | none => 1

/-- R92: "The block tells them apart by position in its fixed micro-program." The program is read from its start,
instruction after instruction; the answer is the instruction that begins at position `n`, and none inside an
instruction. `skip` is how many micro-operations of the instruction under way are still to pass. -/
def wholeFrom : (skip : Nat) → List MicroOp → (n : Nat) → Option Instr
  | _, [], _ => none
  | 0, m :: l, 0 => wholeAt (m :: l)
  | _ + 1, _ :: _, 0 => none
  | 0, m :: l, n + 1 => wholeFrom (wholeLen (m :: l) - 1) l n
  | skip + 1, _ :: l, n + 1 => wholeFrom skip l n

/-- What the block's own turn does. -/
inductive Fetched where
  /-- An instruction of the opcode table runs. -/
  | instr (i : Instr)
  /-- The wait at `upc` ends (R130). -/
  | wait (t : Nat)
  /-- A waiter is granted (R251). -/
  | grant
  /-- The micro-program is at its end: an ATTACH waits for `REG_OK` there (R247). -/
  | finish
  /-- Nothing to do (R301). -/
  | nothing
  /-- A transaction without a context (R22). -/
  | noContext
  /-- A port image that is no transaction of this block (R82). -/
  | notAnImage
  deriving DecidableEq, Repr

/-- The PORT8 instruction of a transaction: its image is built with the backlight of now (R157) and decoded. -/
def fetchTx (bl : Bool) (v : Nibble) (rs en : Bool) : Fetched :=
  match decodePort8 (image v rs bl en) with
  | .ok i => .instr i
  | .error _ => .notAnImage

/-- The micro-operation at `upc`; with `whole`, the whole NIB5 or LCD9 instruction that begins there, if one does. -/
def fetchAt (whole : Bool) (bl : Bool) (q : Seq) : Fetched :=
  match q.prog.drop q.upc with
  | [] => .finish
  | .wait t :: _ => .wait t
  | .tx v rs en :: _ =>
    match (if whole then wholeFrom 0 q.prog q.upc else none) with
    | some i => .instr i
    | none => fetchTx bl v rs en

/-- What the block's own turn does. -/
def fetch (whole : Bool) (s : State) : Fetched :=
  match s.inst.seq, s.inst.ctx with
  | none, _ => if s.inst.life = .ready ∧ s.inst.waiters ≠ [] then .grant else .nothing
  | some _, none => .noContext
  | some q, some c => fetchAt whole c.backlight q

/-- The fetch source of `withFetchWord`: an operation is running whose micro-program is what the instruction names. -/
def Inst.running (bl : Bool) (ms : List MicroOp) (i : Inst) : Inst :=
  { i with
    life := (if i.life.operation = none then .attaching else i.life)
    lock := .held
    ctx := some ⟨(i.ctx.map Ctx.addr).getD Config.addrDefault, bl⟩
    seq := some ⟨ms, 0⟩
    dly := .idle }

/-- The backlight bit of a port image (R80); where the instruction carries none, on (R23). -/
def backlightOf : Instr → Bool
  | .portEnHi _ bl _ | .portEnLo _ bl _ => bl
  | .idle | .attach _ | .write _ | .detach | .initNib3 | .initNib2 | .functionSet | .displayControl | .clear
  | .entryModeSet | .home | .setDdramRow1 | .data _ => true

/-- A turn put before those to come. -/
def State.pushTurn (t : Turn) (s : State) : State :=
  { s with env := { s.env with turns := { s.env.turns with script := t :: s.env.turns.script } } }

/-- An instruction placed where the next step takes it. -/
def State.place (i : Instr) (w : Nat) (s : State) : State :=
  match i.format with
  | .req16 => s.pushTurn (.host (.request { s.port with word := BitVec.ofNat 16 w }))
  | .port8 => (s.mapInst (Inst.running (backlightOf i) (expand i))).pushTurn .single
  | .nib5 | .lcd9 => (s.mapInst (Inst.running true (expand i))).pushTurn .whole

end Sys2Proof.Machine
end

