-- ==== Sys2Proof/Machine/Step.lean ====
section
/-! DEFINITION. One step of the machine, and the placing of an instruction for the next step. -/

namespace Sys2Proof.Machine

/-- The host presents an event: a request descriptor is decoded and runs as its instruction, with its side inputs on the
request lines; what matches no row, a read, any other control, and a reset within a run are refused (R95, R258, R302). -/
def hostTurn (e : HostEvent) (s : State) : Host.Outcome State Fault Refusal :=
  match e with
  | .request r =>
    match decodeReq16 r.word with
    | .ok i => exec i { s with port := r }
    | .error _ => .next ({ s with port := r }.refuse .f1)
  | .read => .next (s.refuse .f8)
  | .control => .next (s.refuse .f9)
  | .reset => .next s.resetEvent

/-- The block takes its own next action. -/
def blockTurn (whole : Bool) (s : State) : Host.Outcome State Fault Refusal :=
  match fetch whole s with
  | .instr i => exec i s
  | .wait t => .next (waitTurn t s).settle
  | .grant => .next (grantTurn s)
  | .finish => .next s.settle
  | .nothing => .next s
  | .noContext => .fault .noOperation
  | .notAnImage => .refused .notAnImage

/-- A turn of the instance in focus, which has no meaning once its run is marked refused (R32, R272). -/
def ifMeaningful (s : State) (turn : Host.Outcome State Fault Refusal) : Host.Outcome State Fault Refusal :=
  if s.inst.refused then .refused .runHasNoMeaning else turn

/-- One step: the next turn is taken and carried out. -/
def step (s : State) : Host.Outcome State Fault Refusal :=
  match s.nextTurn with
  | .host e => ifMeaningful s (hostTurn e s.dropTurn)
  | .register ok => ifMeaningful s (.next (registerTurn ok s.dropTurn))
  | .single => ifMeaningful s (blockTurn false s.dropTurn)
  | .whole => ifMeaningful s (blockTurn true s.dropTurn)
  | .pass dt => .next (s.dropTurn.pass dt)
  | .focus k => .next (s.dropTurn.focus k)

/-- The state with an instruction's word placed so that the next step runs exactly it (assumption logs 2 and 10). A word
that is no instruction is presented as what it is: a descriptor that matches no row (R258 F1), or, in the width of a
format inside the block, a command pass-through (F9). -/
def State.withFetchWord (s : State) (nbits w : Nat) : State :=
  match decodeTableWord nbits w with
  | some i => s.place i w
  | none => s.pushTurn (.host (if nbits = 16 then .request { s.port with word := BitVec.ofNat 16 w } else .control))

end Sys2Proof.Machine
end

