-- ==== Sys2Proof/Machine/Delay.lean ====
section
/-! DEFINITION. The cycle-level delay counter of spec/41_delay_generator.md R133, clocked at `F_CLK_HZ`: any counter that
waits at least `t` conforms, and no rule of the machine depends on it. -/

namespace Sys2Proof.Machine

/-- `N = ceil(t × F_CLK_HZ / 10^9)`, the value loaded for a wait of `t` ns (R133). -/
def delayCycles (t hz : Nat) : Nat := (t * hz + 999_999_999) / 1_000_000_000

/-- The down-counter. -/
structure DownCounter where
  count : Nat
  deriving DecidableEq, Repr

/-- R133: the load. -/
def DownCounter.load (t hz : Nat) : DownCounter := ⟨delayCycles t hz⟩

/-- R133: one count per clock edge, down to 0. -/
def DownCounter.edge (d : DownCounter) : DownCounter := ⟨d.count - 1⟩

/-- The counter after some clock edges. -/
def DownCounter.edges : Nat → DownCounter → DownCounter
  | 0, d => d
  | n + 1, d => DownCounter.edges n d.edge

/-- R133: the wait ends when the counter has reached 0. -/
def DownCounter.done (d : DownCounter) : Bool := d.count == 0

/-- The counter of this hardware's clock. -/
def DownCounter.loadHere (t : Nat) : DownCounter := DownCounter.load t Config.clkHz

end Sys2Proof.Machine
end

