-- ==== Sys2Proof/Machine/HostProgram.lean ====
section
/-! DEFINITION. Host programs and traces (spec/30_encoding.md R96, R97): the requests of a program as the turns of a
run, and the trace spelling of `hist`. -/

namespace Sys2Proof.Machine

/-- A request line of R96. -/
inductive HostOp where
  | attach (addr : Word7) (cap alloc reg : Bool)
  | write (bytes : List Byte)
  | detach
  deriving DecidableEq, Repr

/-- A line of R96: `@<caller> <request>`, and whether it begins with `||`. -/
structure HostLine where
  caller : Nat
  op : HostOp
  concurrent : Bool
  deriving DecidableEq, Repr

/-- The `DATA` lines that carry these bytes from index 0 on. -/
def dataLines (bytes : List Byte) : Vector Byte 64 := Vector.ofFn fun i => bytes.getD i.val 0

/-- `LEN7` of a WRITE line: its length, or, where seven bits cannot hold that, the largest length. Either way a length
over 64 is in a descriptor that is refused (R10, R258 F1). -/
def lenField (bytes : List Byte) : Word7 := BitVec.ofNat 7 (min bytes.length 127)

/-- The request a line issues (R93, R96). -/
def HostLine.request (l : HostLine) : Request :=
  match l.op with
  | .attach addr cap alloc _ => ⟨req16 0 addr 0b01, l.caller, dataLines [], cap, alloc⟩
  | .write bytes => ⟨req16 (lenField bytes) 0 0b10, l.caller, dataLines bytes, true, true⟩
  | .detach => ⟨req16 0 0 0b11, l.caller, dataLines [], true, true⟩

/-- The turns that serve a request to its end: the block's own, and the line's `REG_OK` at the end of an ATTACH. An ATTACH
that fails a check has ended at once and takes none; one that a transaction has ended does not read its `REG_OK` (R247). -/
def HostOp.ownTurns : HostOp → List Turn
  | .attach _ cap alloc reg =>
    if cap && alloc then List.replicate initProg.length .single ++ [.register reg] else []
  | .write bytes => List.replicate ((wbProg (lenField bytes) bytes).length + 1) .single
  | .detach => List.replicate detachProg.length .single

/-- The turns of a program: each request, then the turns until it is served; the requests of concurrent lines stand
together. -/
def hostTurns : List HostLine → (owed : List Turn) → List Turn
  | [], owed => owed
  | l :: ls, owed =>
    if l.concurrent then .host (.request l.request) :: hostTurns ls (owed ++ l.op.ownTurns)
    else owed ++ .host (.request l.request) :: hostTurns ls l.op.ownTurns

/-- A host program made the environment of a run, with the adapter's draws and the waits' excesses (assumption log 10). -/
def State.load (p : List HostLine) (txs : List TxDraw) (overs : List Nat) (s : State) : State :=
  { s with env :=
    { s.env with
      turns := { s.env.turns with script := hostTurns p [] }
      txs := { s.env.txs with script := txs }
      overs := { s.env.overs with script := overs } } }

/-- A hexadecimal digit. -/
def hexDigit (n : Nibble) : Char := "0123456789ABCDEF".toList.getD n.toNat '0'

/-- The trace spelling of a byte (R97). -/
def hexByte (b : Byte) : String := "0x" ++ String.ofList [hexDigit (hiNibble b), hexDigit (loNibble b)]

/-- The trace spelling of a duration (R97). -/
def spellTime (t : Nat) : String :=
  if t % 1_000_000 = 0 then toString (t / 1_000_000) ++ "ms"
  else if t % 1_000 = 0 then toString (t / 1_000) ++ "us"
  else toString t ++ "ns"

/-- The trace spelling of a failure kind (R97). -/
def spellKind : TxKind → String
  | .nack => "NACK"
  | .arbLost => "ARB_LOST"
  | .adapterError => "ADAPTER_ERROR"

/-- The trace spelling of a `hist` entry (R97). -/
def Event.spell : Event → String
  | .tx _ _ _ img .ok => "TX " ++ hexByte img
  | .tx _ _ _ img (.err kind) => "TX " ++ hexByte img ++ " !" ++ spellKind kind
  | .wait _ _ tMin => "WAIT " ++ spellTime tMin

end Sys2Proof.Machine
end

