-- ==== Sys2Proof/Safety.lean ====
section
/-! DEFINITION. What claims are stated in: the invariants of an instance and of a bus, the entries of `hist`, the draws by
their number, and runs of turns. -/

namespace Sys2Proof.Machine

/-! ### Entries of `hist` -/

/-- When an entry begins. -/
def Event.start : Event → Nat
  | .tx tIssue _ _ _ _ => tIssue
  | .wait tStart _ _ => tStart

/-- When an entry ends. -/
def Event.stop : Event → Nat
  | .tx _ tDone _ _ _ => tDone
  | .wait _ tEnd _ => tEnd

/-- The image of a transaction. -/
def Event.image? : Event → Option Byte
  | .tx _ _ _ img _ => some img
  | .wait _ _ _ => none

/-- Whether an entry is a transaction that failed. -/
def Event.failed : Event → Bool
  | .tx _ _ _ _ (.err _) => true
  | .tx _ _ _ _ .ok => false
  | .wait _ _ _ => false

/-- The images of the transactions of a history, in order. -/
def imagesOf (h : List Event) : List Byte := h.filterMap Event.image?

/-- The minimums of R134: no other wait exists. -/
def minimums : List Nat := [1_000, 50_000, 1_000_000, 2_000_000, 5_000_000, 50_000_000]

/-- What the rules say of one entry: a transaction takes time (R115), and its image has RW = 0 and BL = 1 (R82, R86); a
wait lasts at least its minimum (R130), which is one of R134. -/
def Event.Legal : Event → Prop
  | .tx tIssue tDone _ img _ => tIssue < tDone ∧ img.getLsbD 1 = false ∧ img.getLsbD 3 = true
  | .wait tStart tEnd tMin => tStart + tMin ≤ tEnd ∧ tMin ∈ minimums

/-! ### Micro-programs -/

/-- Whether a micro-operation is a transaction. -/
def MicroOp.isTx : MicroOp → Bool
  | .tx _ _ _ => true
  | .wait _ => false

/-- The image of a micro-operation under a backlight. -/
def MicroOp.imageUnder (bl : Bool) : MicroOp → Option Byte
  | .tx v rs en => some (image v rs bl en)
  | .wait _ => none

/-- The images of the transactions of a micro-program under a backlight, in order. -/
def imagesUnder (bl : Bool) (ms : List MicroOp) : List Byte := ms.filterMap (MicroOp.imageUnder bl)

/-- The minimum time of a micro-operation, `t_tx` not counted (R312). -/
def MicroOp.minTime : MicroOp → Nat
  | .tx _ _ _ => 0
  | .wait t => t

/-- The transactions of a micro-program. -/
def txCount (ms : List MicroOp) : Nat := ms.countP MicroOp.isTx

/-- The waits of a micro-program. -/
def waitCount (ms : List MicroOp) : Nat := ms.countP (fun m => !m.isTx)

/-- The minimum duration of a micro-program, `t_tx` not counted (R312). -/
def minDuration (ms : List MicroOp) : Nat := (ms.map MicroOp.minTime).sum

/-- Whether an entry is what a micro-operation records when it completes with success under a context: its transaction, to
`ctx.addr` with its image and OK (R110), or its wait, of at least its minimum (R130). -/
def Event.Records (c : Ctx) : MicroOp → Event → Prop
  | .tx v rs en, .tx _ _ addr img status => addr = c.addr ∧ img = image v rs c.backlight en ∧ status = .ok
  | .wait t, .wait tStart tEnd tMin => tMin = t ∧ tStart + t ≤ tEnd
  | .tx _ _ _, .wait _ _ _ => False
  | .wait _, .tx _ _ _ _ _ => False

/-- Entries that are, one for one and in order, what these micro-operations record. -/
def Recorded (c : Ctx) : List MicroOp → List Event → Prop
  | [], [] => True
  | m :: ms, e :: es => Event.Records c m e ∧ Recorded c ms es
  | [], _ :: _ => False
  | _ :: _, [] => False

/-! ### Programs by their instructions -/

/-- A part of a micro-program: an instruction of the opcode table, or a wait between instructions. -/
inductive Part where
  | instr (i : Instr)
  | wait (t : Nat)
  deriving DecidableEq, Repr

/-- The micro-operations of a part. -/
def Part.micros : Part → List MicroOp
  | .instr i => expand i
  | .wait t => [.wait t]

/-- The micro-program of parts in order. -/
def flat (ps : List Part) : List MicroOp := ps.flatMap Part.micros

/-- Whether a part may stand at the beginning of these: a byte and a wait anywhere, a raw nibble only before a wait or at
the end (R92: two nibble writes that follow each other are a byte). -/
def Part.fits : Part → List Part → Bool
  | .wait _, _ => true
  | .instr i, .instr _ :: _ => i.format == .lcd9
  | .instr i, .wait _ :: _ => i.format == .lcd9 || i.format == .nib5
  | .instr i, [] => i.format == .lcd9 || i.format == .nib5

/-- Parts each of which may stand where it stands. -/
def partsOk : List Part → Bool
  | [] => true
  | p :: ps => p.fits ps && partsOk ps

/-- INIT_PROG by its instructions (R180 to R187). -/
def initParts : List Part :=
  [.wait 50_000_000, .instr .initNib3, .wait 5_000_000, .instr .initNib3, .wait 1_000_000, .instr .initNib3,
    .wait 1_000_000, .instr .initNib2, .wait 1_000_000, .instr .functionSet, .wait 1_000_000, .instr .displayControl,
    .wait 1_000_000, .instr .clear, .wait 2_000_000, .instr .entryModeSet, .wait 1_000_000]

/-- WB_PROG of the rendered bytes by its instructions (R210 to R216). -/
def writeParts (buf : List Byte) : List Part :=
  [.instr .clear, .wait 2_000_000, .instr .home, .wait 2_000_000]
    ++ (buf.take 16).map (fun b => .instr (.data b))
    ++ (if buf.length ≤ 16 then [] else [.instr .setDdramRow1, .wait 1_000_000])
    ++ (buf.drop 16).map (fun b => .instr (.data b))

/-- DETACH_PROG by its instructions (R254). -/
def detachParts : List Part := [.instr .clear]

/-! ### Bytes -/

/-- The instructions that send a byte, with the byte and its RS (R87, R89). -/
def byteOf : Instr → Option (Byte × Bool)
  | .functionSet => some (0x28, false)
  | .displayControl => some (0x0C, false)
  | .clear => some (0x01, false)
  | .entryModeSet => some (0x06, false)
  | .home => some (0x02, false)
  | .setDdramRow1 => some (0xC0, false)
  | .data b => some (b, true)
  | .idle | .attach _ | .write _ | .detach | .portEnHi _ _ _ | .portEnLo _ _ _ | .initNib3 | .initNib2 => none

/-- R158: the four images of a byte: `h|E`, `h`, `l|E`, `l` with the backlight and RS bits in each. -/
def byteImages (b : Byte) (rs bl : Bool) : List Byte :=
  let blrs : Byte := (if bl then 0x08 else 0) ||| (if rs then 0x01 else 0)
  let h := (b &&& 0xF0) ||| blrs
  let l := ((b &&& 0x0F) <<< 4) ||| blrs
  [h ||| 0x04, h, l ||| 0x04, l]

/-! ### Draws by their number -/

/-- A source after `n` values have been taken. -/
def Draws.drop {α : Type} : Nat → Draws α → Draws α
  | 0, d => d
  | n + 1, d => Draws.drop n d.tail

/-- The adapter's draws for the transaction after `n` others. -/
def State.txAt (n : Nat) (s : State) : TxDraw := (s.env.txs.drop n).head Config.freeTx

/-- `t_over` of the wait after `n` others. -/
def State.overAt (n : Nat) (s : State) : Nat := (s.env.overs.drop n).head Config.freeOver

/-- `t_tx` of the transaction after `n` others. -/
def State.txTime (n : Nat) (s : State) : Nat := (s.txAt n).txTimeLess1 + 1

/-- The next `n` transactions succeed. -/
def State.AdapterOk (n : Nat) (s : State) : Prop := ∀ k, k < n → (s.txAt k).status = .ok

/-- A state with its turns to come. -/
def State.withTurns (ts : List Turn) (s : State) : State :=
  { s with env := { s.env with turns := { s.env.turns with script := ts } } }

/-! ### Frames -/

/-- What a run of micro-operations leaves unchanged while its operation goes on: all but `seq`, `fsm`, `dly`, `hist`,
`portLatch`, `lcd` and its trail, the time, and the draws of the adapter and of the waits. -/
structure State.SameButSequencer (s t : State) : Prop where
  life : t.inst.life = s.inst.life
  ctx : t.inst.ctx = s.inst.ctx
  lock : t.inst.lock = s.inst.lock
  waiters : t.inst.waiters = s.inst.waiters
  cur : t.inst.cur = s.inst.cur
  result : t.inst.result = s.inst.result
  attachResult : t.inst.attachResult = s.inst.attachResult
  refused : t.inst.refused = s.inst.refused
  opCaller : t.inst.opCaller = s.inst.opCaller
  refusedBy : t.inst.refusedBy = s.inst.refusedBy
  peers : t.peers = s.peers
  port : t.port = s.port
  turns : t.env.turns = s.env.turns
  picks : t.env.picks = s.env.picks

/-! ### The invariant of an instance -/

/-- R94, and the words never produced: bits 7..5 nonzero, `STATUS` 5 to 7, `KIND` nonzero unless `STATUS` is 3, `COUNT`
nonzero unless `STATUS` is 0. -/
def legalResult (w : Word16) : Bool :=
  w.extractLsb' 5 3 == 0 && decide ((res16Status w).toNat ≤ 4) && (res16Status w == 3) == (res16Kind w != 0)
    && (res16Status w == 0 || res16Count w == 0) && decide ((res16Count w).toNat ≤ 64)

/-- R25, R26: a blocked or served WRITE has a length of 1 to 64, and holds its first min(len,32) bytes. -/
def LegalWrite (len : Word7) (buf : List Byte) : Prop :=
  1 ≤ len.toNat ∧ len.toNat ≤ 64 ∧ buf.length = effLen len

/-- R27: the micro-program is the one of the operation that runs, and `upc` stands inside it; at its end only an ATTACH
stands, waiting for `REG_OK` (R247). -/
def Inst.ProgramOk (i : Inst) : Prop :=
  match i.life, i.seq with
  | .detached, none => True
  | .ready, none => True
  | .attaching, some q => q.prog = initProg ∧ q.upc ≤ q.prog.length
  | .writing, some q => (∃ c, i.cur = some c ∧ q.prog = wbProg c.len c.buf) ∧ q.upc < q.prog.length
  | .detaching, some q => q.prog = detachProg ∧ q.upc < q.prog.length
  | .detached, some _ | .ready, some _ | .attaching, none | .writing, none | .detaching, none => False

/-- R29, R131, R139: a wait is in progress exactly where one stands at `upc`, and it is that one. -/
def Inst.DelayOk (i : Inst) : Prop :=
  match i.waitHere with
  | some t => ∃ tStart, i.dly = .running t tStart
  | none => i.dly = .idle

/-- What holds of every instance: the modes and what exists in each of them (spec/10_state.md), and legal requests and
results. -/
structure Inst.Sound (i : Inst) : Prop where
  /-- R24. -/
  lock : i.lock = lockOf i.life
  /-- R22. -/
  context : i.ctx.isSome = true ↔ i.life ≠ .detached
  /-- R23. -/
  backlight : ∀ c, i.ctx = some c → c.backlight = true
  /-- R26. -/
  serving : i.cur.isSome = true ↔ i.life = .writing
  /-- R240. -/
  caller : i.opCaller.isSome = true ↔ i.life = .attaching ∨ i.life = .detaching
  /-- R279. -/
  waiting : i.waiters ≠ [] → i.life = .ready ∨ i.life = .writing
  /-- R25. -/
  waitersCanonical : assocWf i.waiters
  /-- R25, R26. -/
  waitersLegal : ∀ w ∈ i.waiters, LegalWrite w.2.len w.2.buf
  /-- R26. -/
  curLegal : ∀ c, i.cur = some c → LegalWrite c.len c.buf
  /-- R240: a caller has at most one outstanding request. -/
  oneOutstanding : ∀ c, i.cur = some c → assocGet c.caller i.waiters = none
  /-- R27. -/
  program : i.ProgramOk
  /-- R29, R131. -/
  delay : i.DelayOk
  /-- R30. -/
  resultsCanonical : assocWf i.result
  /-- R94. -/
  resultsLegal : ∀ r ∈ i.result, legalResult r.2 = true
  /-- R94. -/
  attachLegal : ∀ w, i.attachResult = some w → legalResult w = true
  /-- R32. -/
  refusedNamed : i.refusedBy.isSome = i.refused
  /-- R64, R65: the one configuration the LCD is ever known to be in. -/
  lcdCfg : ∀ r, i.lcd = .known r → r.cfg = LcdCfg.init
  /-- R70: no sequence is under way when no operation runs. -/
  settled : i.seq = none → i.trail = []

/-- R131: what an entry says of the one after it: a wait starts when the entry before it ends. The 50 ms wait of INIT_PROG,
before which no micro-operation of its program stands, starts with its ATTACH (R245). -/
def Event.Follows (a b : Event) : Prop :=
  match b with
  | .tx _ _ _ _ _ => True
  | .wait tStart _ tMin => tMin ≠ 50_000_000 → tStart = a.stop

/-- R35, R58, R131: the entries of `hist` are legal, in order, without overlap, and in the past; a wait in progress began
after all of them; and every wait, recorded or in progress, started when the entry before it ended. -/
structure Inst.HistoryOk (now : Nat) (i : Inst) : Prop where
  legal : ∀ e ∈ i.hist, e.Legal
  sequential : i.hist.Pairwise (fun a b => a.stop ≤ b.start)
  past : ∀ e ∈ i.hist, e.stop ≤ now
  delay : ∀ t tStart, i.dly = .running t tStart → tStart ≤ now ∧ ∀ e ∈ i.hist, e.stop ≤ tStart
  follows : ∀ n a b, i.hist[n]? = some a → i.hist[n + 1]? = some b → a.Follows b
  delayFollows : ∀ t tStart, i.dly = .running t tStart → t ≠ 50_000_000 →
    ∃ a, i.hist.getLast? = some a ∧ tStart = a.stop

/-- R28: what the FSM registers issue from here on is what is left of `prog`. -/
def Inst.FsmOk (i : Inst) : Prop :=
  ∀ q, i.seq = some q →
    i.fsm.trace i.life.operation ((i.cur.map Cur.buf).getD []) (q.prog.length - q.upc + 1) = q.prog.drop q.upc

/-! ### The bus -/

/-- A property of every instance on the bus. -/
def State.All (P : Inst → Prop) (s : State) : Prop := P s.inst ∧ ∀ p ∈ s.peers, P p

/-- R258 F3: no two live instances on the bus hold one address. -/
def Inst.Apart (a b : Inst) : Prop := ∀ c d, a.ctx = some c → b.ctx = some d → c.addr ≠ d.addr

/-- The addresses of the live instances on the bus differ. -/
def State.AddressesApart (s : State) : Prop := (s.inst :: s.peers).Pairwise Inst.Apart

end Sys2Proof.Machine
end

