-- ==== Sys2Proof/Certificates/Slice0/Obligations.lean ====
section
/-! DEFINITION. The statements for the provers, from the numbered rules of spec/. A statement about the adapter's
success is made under a premise on its draws; nothing is stated about the value of a free draw. -/

open Sys2Proof Sys2Proof.Machine

/-! ### Encodings -/

/-- Words written out from the formats of R80, R85 and R93 are the instructions they stand for. -/
def Obligations.TableWordsDecode : Prop :=
  decode .req16 0b0000000_0000000_00 = .ok .idle
    ∧ decode .req16 0b0000000_0100111_01 = .ok (.attach 0x27)
    ∧ decode .req16 0b0010100_0000000_10 = .ok (.write 20)
    ∧ decode .req16 0b0000000_0000000_11 = .ok .detach
    ∧ decode .port8 0b0011_1_1_0_0 = .ok (.portEnHi 0x3 true false)
    ∧ decode .port8 0b0100_1_0_0_1 = .ok (.portEnLo 0x4 true true)
    ∧ decode .nib5 0b0_0011 = .ok .initNib3
    ∧ decode .nib5 0b0_0010 = .ok .initNib2
    ∧ decode .lcd9 0b0_0010_1000 = .ok .functionSet
    ∧ decode .lcd9 0b0_0000_1100 = .ok .displayControl
    ∧ decode .lcd9 0b0_0000_0001 = .ok .clear
    ∧ decode .lcd9 0b0_0000_0110 = .ok .entryModeSet
    ∧ decode .lcd9 0b0_0000_0010 = .ok .home
    ∧ decode .lcd9 0b0_1100_0000 = .ok .setDdramRow1
    ∧ decode .lcd9 0b1_0100_0001 = .ok (.data 0x41)

/-- Every well-formed instruction is read back from its own word, with every operand. -/
def Obligations.EncodeThenDecode : Prop :=
  ∀ i : Instr, i.wellFormed = true → decode i.format (encode i) = .ok i

/-- A word that decodes is the word of the instruction it decodes to: each word has one meaning, in its own format. -/
def Obligations.DecodeThenEncode : Prop :=
  ∀ (f : Format) (w : Nat) (i : Instr), decode f w = .ok i → i.format = f ∧ i.wellFormed = true ∧ encode i = w

/-- R95: which descriptors match a row, by their fields OP, ADDR7 and LEN7, and that a step refuses one that matches
none. The row it names is the model's field `refusedBy` (assumption log 6). -/
def Obligations.RequestRows : Prop :=
  (∀ (w : Word16) (i : Instr),
    decodeReq16 w = .ok i ↔
      (w.extractLsb' 0 2 = 0 ∧ w.extractLsb' 2 7 = 0 ∧ w.extractLsb' 9 7 = 0 ∧ i = .idle)
        ∨ (w.extractLsb' 0 2 = 1 ∧ w.extractLsb' 9 7 = 0 ∧ i = .attach (w.extractLsb' 2 7))
        ∨ (w.extractLsb' 0 2 = 2 ∧ w.extractLsb' 2 7 = 0 ∧ (w.extractLsb' 9 7).toNat ≤ 64
            ∧ i = .write (w.extractLsb' 9 7))
        ∨ (w.extractLsb' 0 2 = 3 ∧ w.extractLsb' 2 7 = 0 ∧ w.extractLsb' 9 7 = 0 ∧ i = .detach))
    ∧ ∀ (s : State) (r : Request) (e : DecodeError),
      s.inst.refused = false → s.nextTurn = .host (.request r) → decodeReq16 r.word = .error e →
        step s = .next { s.dropTurn with
          port := r
          inst := { s.inst with refused := true, refusedBy := some (s.inst.refusedBy.getD .f1) } }

/-- R81: the image as a number, and that bit 1 is 0 in every image. -/
def Obligations.ImageFormula : Prop :=
  ∀ (v : Nibble) (rs bl en : Bool),
    (image v rs bl en).toNat = v.toNat * 16 + en.toNat * 4 + bl.toNat * 8 + rs.toNat
      ∧ (image v rs bl en).getLsbD 1 = false

/-- R94, R270, R271: the result words, and that every one the block can write is legal (no bit of 7..5, no `STATUS` 5 to
7, `KIND` with `STATUS` 3 alone, `COUNT` with `STATUS` 0 alone). -/
def Obligations.ResultWords : Prop :=
  (∀ len : Word7, (Result.ok len).word = BitVec.ofNat 16 (256 * len.toNat))
    ∧ Result.capabilityError.word = 0x0001
    ∧ Result.allocationError.word = 0x0002
    ∧ (Result.transportError .nack).word = 0x000B
    ∧ (Result.transportError .arbLost).word = 0x0013
    ∧ (Result.transportError .adapterError).word = 0x001B
    ∧ Result.registrationError.word = 0x0004
    ∧ (∀ len : Word7, len.toNat ≤ 64 → legalResult (Result.ok len).word = true)
    ∧ ∀ kind : TxKind, legalResult (Result.transportError kind).word = true

/-! ### Reset and the step -/

/-- R300: the state after reset, for every piece of state of spec/10_state.md that has a reset value. -/
def Obligations.ResetState : Prop :=
  State.reset.inst.life = .detached
    ∧ State.reset.inst.lock = .free
    ∧ State.reset.inst.waiters = []
    ∧ State.reset.inst.ctx = none
    ∧ State.reset.inst.cur = none
    ∧ State.reset.inst.seq = none
    ∧ State.reset.inst.result = []
    ∧ State.reset.inst.attachResult = none
    ∧ State.reset.inst.refused = false
    ∧ State.reset.inst.dly = .idle
    ∧ State.reset.inst.portLatch = .unknown
    ∧ State.reset.inst.lcd = .unknown
    ∧ State.reset.inst.hist = []

/-- A step on a request runs the instruction its descriptor decodes to, with the request on the lines. -/
def Obligations.StepRunsTheRequest : Prop :=
  ∀ (s : State) (r : Request) (i : Instr),
    s.inst.refused = false → s.nextTurn = .host (.request r) → decodeReq16 r.word = .ok i →
      step s = exec i { s.dropTurn with port := r }

/-- A step on a transaction at `upc` runs the PORT8 instruction that its image, built with the backlight of now (R157),
decodes to. -/
def Obligations.StepRunsTheTransaction : Prop :=
  ∀ (s : State) (c : Ctx) (q : Seq) (v : Nibble) (rs en : Bool) (rest : List MicroOp),
    s.inst.refused = false → s.nextTurn = .single → s.inst.ctx = some c → s.inst.seq = some q →
      q.prog.drop q.upc = .tx v rs en :: rest →
        ∃ i, decodePort8 (image v rs c.backlight en) = .ok i
          ∧ i = (if en then .portEnHi v c.backlight rs else .portEnLo v c.backlight rs)
          ∧ step s = exec i s.dropTurn

/-- R92: a step that takes a whole instruction runs the one whose position in the program `upc` is. The program is read by
its parts from its start: bytes and waits, and raw nibbles before a wait or at the end. Inside an instruction a whole turn
is the single turn of the micro-operation there. Whole turns are the model's granularity (assumption log 11). -/
def Obligations.StepRunsTheWholeInstruction : Prop :=
  ∀ (s : State) (c : Ctx) (i : Instr) (before behind : List Part) (k : Nat),
    s.inst.ctx = some c → partsOk (before ++ .instr i :: behind) = true →
      s.inst.seq = some ⟨flat (before ++ .instr i :: behind), (flat before).length + k⟩ →
        (k = 0 → s.inst.refused = false → s.nextTurn = .whole → step s = exec i s.dropTurn)
          ∧ (0 < k → k < (expand i).length → blockTurn true s = blockTurn false s)

/-- An instruction placed by its table word is run by the next step, with nothing changed but the lines it comes from: a
request on the request lines, or an operation whose micro-program it is. How a word is placed is the model's choice
(assumption logs 2 and 10). -/
def Obligations.PlacedInstructionRuns : Prop :=
  ∀ (s : State) (nbits w : Nat) (i : Instr),
    s.inst.refused = false → decodeTableWord nbits w = some i →
      step (s.withFetchWord nbits w) =
        exec i (if i.format = .req16 then { s with port := { s.port with word := BitVec.ofNat 16 w } }
          else s.mapInst (Inst.running (backlightOf i) (expand i)))

/-- R32, R272: a run whose instance is marked refused goes no further, while time and the other instances do. That `step`
answers a refusal there is the model's choice (assumption log 12). -/
def Obligations.RefusedRunStops : Prop :=
  ∀ s : State, s.inst.refused = true →
    (∀ e, s.nextTurn = .host e → step s = .refused .runHasNoMeaning)
      ∧ (∀ ok, s.nextTurn = .register ok → step s = .refused .runHasNoMeaning)
      ∧ (s.nextTurn = .single → step s = .refused .runHasNoMeaning)
      ∧ (s.nextTurn = .whole → step s = .refused .runHasNoMeaning)
      ∧ (∀ dt, s.nextTurn = .pass dt → step s = .next { s.dropTurn with now := s.now + dt })
      ∧ ∀ k, s.nextTurn = .focus k → ∃ t, step s = .next t

/-! ### Transactions and waits -/

/-- R110, R112: `PORT_EN_HI` and `PORT_EN_LO` with an adapter that succeeds: one transaction of exactly this image to
`ctx.addr`, recorded with its times, the port latch, and `upc` one further. Nothing else changes but the FSM registers and
what the LCD has seen, which is the model's field `trail` (assumption log 7). `settle` is what happens at that moment: the
end of the operation where it is reached (log 11), or the start of the wait that follows (R131). -/
def Obligations.TransactionSucceeds : Prop :=
  ∀ (s : State) (c : Ctx) (q : Seq) (d : Nibble) (bl rs en : Bool),
    s.inst.ctx = some c → s.inst.seq = some q → s.nextTx.status = .ok →
      exec (if en then .portEnHi d bl rs else .portEnLo d bl rs) s =
        .next (State.settle { s with
          now := s.now + s.txTime 0
          env := { s.env with txs := s.env.txs.tail }
          inst := { s.inst with
            hist := s.inst.hist ++ [.tx s.now (s.now + s.txTime 0) c.addr (image d rs bl en) .ok]
            portLatch := .image (image d rs bl en)
            seq := some ⟨q.prog, q.upc + 1⟩
            fsm := s.inst.fsm.after s.inst.life.operation ((s.inst.cur.map Cur.buf).getD []) (.tx d rs en)
            lcd := (lcdAfter (.tx d rs en) s.inst.lcd s.inst.trail).1
            trail := (lcdAfter (.tx d rs en) s.inst.lcd s.inst.trail).2 } })

/-- R246: a failed transaction while an ATTACH runs ends it: the error kind in `attach_result`, the context destroyed, and
no transaction after the failed one. The port and the LCD are UNKNOWN (R113, R70). `trail`, `opCaller` and the value of
the FSM registers without a context are the model's (assumption logs 7, 5, 3). -/
def Obligations.FailedTransactionEndsAttach : Prop :=
  ∀ (s : State) (c : Ctx) (q : Seq) (d : Nibble) (bl rs en : Bool) (kind : TxKind),
    s.inst.life = .attaching → s.inst.ctx = some c → s.inst.seq = some q → s.nextTx.status = .err kind →
      exec (if en then .portEnHi d bl rs else .portEnLo d bl rs) s =
        .next { s with
          now := s.now + s.txTime 0
          env := { s.env with txs := s.env.txs.tail }
          inst := { s.inst with
            hist := s.inst.hist ++ [.tx s.now (s.now + s.txTime 0) c.addr (image d rs bl en) (.err kind)]
            portLatch := .unknown
            lcd := .unknown
            trail := []
            life := .detached
            lock := .free
            ctx := none
            cur := none
            seq := none
            fsm := Fsm.reset
            dly := .idle
            opCaller := none
            attachResult := some (Result.transportError kind).word } }

/-- R218, R252: a failed transaction while a WRITE runs ends it: `TRANSPORT_ERROR` with the kind and `COUNT` 0 for the
caller, nothing issued after it, and the instance READY with its context. `trail` is the model's (assumption log 7); that no
program is left (`seq`) is the model's reading (log 13), and that the FSM registers keep their values its choice (log 3). -/
def Obligations.FailedTransactionEndsWrite : Prop :=
  ∀ (s : State) (c : Ctx) (q : Seq) (w : Cur) (d : Nibble) (bl rs en : Bool) (kind : TxKind),
    s.inst.life = .writing → s.inst.ctx = some c → s.inst.seq = some q → s.inst.cur = some w →
      s.nextTx.status = .err kind →
        exec (if en then .portEnHi d bl rs else .portEnLo d bl rs) s =
          .next { s with
            now := s.now + s.txTime 0
            env := { s.env with txs := s.env.txs.tail }
            inst := { s.inst with
              hist := s.inst.hist ++ [.tx s.now (s.now + s.txTime 0) c.addr (image d rs bl en) (.err kind)]
              portLatch := .unknown
              lcd := .unknown
              trail := []
              life := .ready
              lock := .free
              cur := none
              seq := none
              result := assocPut w.caller (Result.transportError kind).word s.inst.result } }

/-- R254: a failed transaction while a DETACH runs ends it with result OK: the error is discarded. `trail`, `opCaller` and
the value of the FSM registers without a context are the model's (assumption logs 7, 5, 3). -/
def Obligations.FailedTransactionEndsDetach : Prop :=
  ∀ (s : State) (c : Ctx) (q : Seq) (caller : Nat) (d : Nibble) (bl rs en : Bool) (kind : TxKind),
    s.inst.life = .detaching → s.inst.ctx = some c → s.inst.seq = some q → s.inst.opCaller = some caller →
      s.nextTx.status = .err kind →
        exec (if en then .portEnHi d bl rs else .portEnLo d bl rs) s =
          .next { s with
            now := s.now + s.txTime 0
            env := { s.env with txs := s.env.txs.tail }
            inst := { s.inst with
              hist := s.inst.hist ++ [.tx s.now (s.now + s.txTime 0) c.addr (image d rs bl en) (.err kind)]
              portLatch := .unknown
              lcd := .unknown
              trail := []
              life := .detached
              lock := .free
              ctx := none
              cur := none
              seq := none
              fsm := Fsm.reset
              dly := .idle
              opCaller := none
              result := assocPut caller 0x0000 s.inst.result } }

/-- R130, R131: a wait starts when the micro-operation before it completes, be that a transaction or a wait; it lasts at
least its minimum from there, is recorded, and `upc` is one further. It cannot fail. That the end of a wait is one turn is
the model's choice (assumption log 11), and `trail` is its field (log 7). -/
def Obligations.WaitBeginsAndEnds : Prop :=
  ∀ (s : State) (c : Ctx) (q : Seq) (t : Nat) (rest : List MicroOp),
    s.inst.refused = false → s.inst.ctx = some c → s.inst.seq = some q →
      (∀ (v : Nibble) (rs en : Bool), s.nextTurn = .single → s.inst.dly = .idle → s.nextTx.status = .ok →
          q.prog.drop q.upc = .tx v rs en :: .wait t :: rest →
            ∃ u, step s = .next u ∧ u.now = s.now + s.txTime 0 ∧ u.inst.dly = .running t u.now)
        ∧ (∀ t' tStart, s.nextTurn = .single ∨ s.nextTurn = .whole → s.inst.dly = .running t' tStart →
          q.prog.drop q.upc = .wait t' :: .wait t :: rest →
            ∃ u, step s = .next u ∧ u.now = max s.now (tStart + t') + s.overAt 0 ∧ u.inst.dly = .running t u.now)
        ∧ ∀ tStart, s.nextTurn = .single ∨ s.nextTurn = .whole → s.inst.dly = .running t tStart →
          q.prog.drop q.upc = .wait t :: rest →
            step s = .next (State.settle { s.dropTurn with
              now := max s.now (tStart + t) + s.overAt 0
              env := { s.dropTurn.env with overs := s.env.overs.tail }
              inst := { s.inst with
                dly := .idle
                hist := s.inst.hist ++ [.wait tStart (max s.now (tStart + t) + s.overAt 0) t]
                seq := some ⟨q.prog, q.upc + 1⟩
                fsm := s.inst.fsm.after s.inst.life.operation ((s.inst.cur.map Cur.buf).getD []) (.wait t)
                lcd := (lcdAfter (.wait t) s.inst.lcd s.inst.trail).1
                trail := (lcdAfter (.wait t) s.inst.lcd s.inst.trail).2 } })

/-- R133: the cycle-level counter ends a wait on the edge its load says and on no earlier one, and that many clock periods
are at least the wait's minimum; one fewer would not be. -/
def Obligations.DelayCounterWaitsLongEnough : Prop :=
  ∀ t hz n : Nat, 0 < t → 0 < hz →
    (((DownCounter.load t hz).edges n).done = true ↔ delayCycles t hz ≤ n)
      ∧ t * hz ≤ delayCycles t hz * 1_000_000_000
      ∧ (delayCycles t hz - 1) * 1_000_000_000 < t * hz

/-! ### Nibbles and bytes -/

/-- R150, R166, R167: the raw nibbles of the InitSequencer. With an adapter that succeeds, `INIT_NIB_3` and `INIT_NIB_2`
run to completion: EN high, at least 1 µs, EN low, at least 50 µs, recorded in that order without overlap. -/
def Obligations.RawNibblesComplete : Prop :=
  ∀ (s : State) (c : Ctx) (q : Seq) (i : Instr) (v : Nibble),
    (i, v) ∈ [(Instr.initNib3, (0x3 : Nibble)), (Instr.initNib2, (0x2 : Nibble))] →
      s.inst.ctx = some c → s.inst.seq = some q → s.AdapterOk 2 →
        ∃ (t : State) (t1 t2 t3 t4 : Nat),
          exec i s = .next t.settle
            ∧ t1 = s.now + s.txTime 0
            ∧ t2 = t1 + 1_000 + s.overAt 0
            ∧ t3 = t2 + s.txTime 1
            ∧ t4 = t3 + 50_000 + s.overAt 1
            ∧ t.now = t4
            ∧ t.inst.hist = s.inst.hist ++
                [.tx s.now t1 c.addr (image v false c.backlight true) .ok, .wait t1 t2 1_000,
                  .tx t2 t3 c.addr (image v false c.backlight false) .ok, .wait t3 t4 50_000]
            ∧ t.inst.portLatch = .image (image v false c.backlight false)
            ∧ t.inst.seq = some ⟨q.prog, q.upc + 4⟩
            ∧ t.inst.dly = .idle
            ∧ t.env.txs = s.env.txs.drop 2
            ∧ t.env.overs = s.env.overs.drop 2
            ∧ s.SameButSequencer t

/-- R158, R159 to R165: with an adapter that succeeds, each command and each data byte runs to completion in exactly four
transactions and four waits, high nibble first, with the images of R158, recorded in order without overlap. -/
def Obligations.BytesComplete : Prop :=
  ∀ (s : State) (c : Ctx) (q : Seq) (i : Instr) (b : Byte) (rs : Bool) (a0 a1 a2 a3 : Byte),
    byteOf i = some (b, rs) → byteImages b rs c.backlight = [a0, a1, a2, a3] →
      s.inst.ctx = some c → s.inst.seq = some q → s.AdapterOk 4 →
        ∃ (t : State) (t1 t2 t3 t4 t5 t6 t7 t8 : Nat),
          exec i s = .next t.settle
            ∧ t1 = s.now + s.txTime 0
            ∧ t2 = t1 + 1_000 + s.overAt 0
            ∧ t3 = t2 + s.txTime 1
            ∧ t4 = t3 + 50_000 + s.overAt 1
            ∧ t5 = t4 + s.txTime 2
            ∧ t6 = t5 + 1_000 + s.overAt 2
            ∧ t7 = t6 + s.txTime 3
            ∧ t8 = t7 + 50_000 + s.overAt 3
            ∧ t.now = t8
            ∧ t.inst.hist = s.inst.hist ++
                [.tx s.now t1 c.addr a0 .ok, .wait t1 t2 1_000, .tx t2 t3 c.addr a1 .ok, .wait t3 t4 50_000,
                  .tx t4 t5 c.addr a2 .ok, .wait t5 t6 1_000, .tx t6 t7 c.addr a3 .ok, .wait t7 t8 50_000]
            ∧ t.inst.portLatch = .image a3
            ∧ t.inst.seq = some ⟨q.prog, q.upc + 8⟩
            ∧ t.inst.dly = .idle
            ∧ t.env.txs = s.env.txs.drop 4
            ∧ t.env.overs = s.env.overs.drop 4
            ∧ s.SameButSequencer t

/-- R152, R156: the first transaction of a byte that fails stops it: the images up to and with the failed one are issued,
no later one, no wait after it, and the operation is at its end. That no program is left (`seq`) is R38 for an ATTACH and a
DETACH; for a WRITE it is the model's reading (assumption log 13). -/
def Obligations.BytesAbort : Prop :=
  ∀ (s : State) (c : Ctx) (q : Seq) (i : Instr) (b : Byte) (rs : Bool) (k : Nat) (kind : TxKind),
    byteOf i = some (b, rs) → s.inst.ctx = some c → s.inst.seq = some q → k < 4 → s.AdapterOk k →
      (s.txAt k).status = .err kind →
        ∃ t new, exec i s = .next t
          ∧ t.inst.hist = s.inst.hist ++ new
          ∧ new.length = 2 * k + 1
          ∧ imagesOf new = (byteImages b rs c.backlight).take (k + 1)
          ∧ t.inst.seq = none
          ∧ t.inst.portLatch = .unknown
          ∧ t.inst.lcd = .unknown
          ∧ t.inst.waiters = s.inst.waiters
          ∧ t.peers = s.peers

/-- R22: where no operation runs there is no context to read, and an instruction made of micro-operations stops by
name (assumption log 18). -/
def Obligations.NoMicroOperationOutsideAnOperation : Prop :=
  ∀ (s : State) (i : Instr), i.format ≠ .req16 → s.inst.ctx = none ∨ s.inst.seq = none →
    exec i s = .fault .noOperation

/-! ### Micro-programs -/

/-- R18, R27, R58: a micro-program that is not stopped runs every one of its micro-operations, in list order, each
starting when the one before it has completed: the k-th new entry is what the k-th micro-operation records, its transaction
with its image or its wait with its minimum, and `upc` counts them. -/
def Obligations.ProgramsRunInOrder : Prop :=
  ∀ (c : Ctx) (ms : List MicroOp) (s t : State) (q : Seq),
    s.inst.seq = some q → runMicros c ms s = .ok t →
      ∃ new, t.inst.hist = s.inst.hist ++ new
        ∧ Recorded c ms new
        ∧ new.length = ms.length
        ∧ (∀ e ∈ new, e.failed = false ∧ s.now ≤ e.start ∧ e.start ≤ e.stop ∧ e.stop ≤ t.now)
        ∧ new.Pairwise (fun a b => a.stop ≤ b.start)
        ∧ imagesOf new = imagesUnder c.backlight ms
        ∧ t.inst.seq = some ⟨q.prog, q.upc + ms.length⟩
        ∧ s.SameButSequencer t

/-- R273: an abort is precise. Every micro-operation before the failing one has completed with success and is recorded, in
list order, the failing transaction was issued once, and nothing after it. That no program is left (`seq`) is R38 for an
ATTACH and a DETACH; for a WRITE it is the model's reading (assumption log 13). -/
def Obligations.AbortIsPrecise : Prop :=
  ∀ (c : Ctx) (ms : List MicroOp) (s t : State),
    runMicros c ms s = .aborted t →
      ∃ (k : Nat) (v : Nibble) (rs en : Bool) (done : List Event) (tIssue tDone : Nat) (kind : TxKind),
        ms[k]? = some (.tx v rs en)
          ∧ t.inst.hist = s.inst.hist ++ done ++
              [.tx tIssue tDone c.addr (image v rs c.backlight en) (.err kind)]
          ∧ done.length = k
          ∧ Recorded c (ms.take k) done
          ∧ imagesOf done = imagesUnder c.backlight (ms.take k)
          ∧ (∀ e ∈ done, e.failed = false)
          ∧ t.inst.seq = none
          ∧ t.inst.portLatch = .unknown
          ∧ t.inst.lcd = .unknown

/-- R180, R190: INIT_PROG, micro-operation by micro-operation; its transactions, its counts, and its minimum duration. -/
def Obligations.InitProgramShape : Prop :=
  initProg =
      [.wait 50_000_000]
        ++ [.tx 0x3 false true, .wait 1_000, .tx 0x3 false false, .wait 50_000, .wait 5_000_000]
        ++ [.tx 0x3 false true, .wait 1_000, .tx 0x3 false false, .wait 50_000, .wait 1_000_000]
        ++ [.tx 0x3 false true, .wait 1_000, .tx 0x3 false false, .wait 50_000, .wait 1_000_000]
        ++ [.tx 0x2 false true, .wait 1_000, .tx 0x2 false false, .wait 50_000, .wait 1_000_000]
        ++ [.tx 0x2 false true, .wait 1_000, .tx 0x2 false false, .wait 50_000, .tx 0x8 false true, .wait 1_000,
          .tx 0x8 false false, .wait 50_000, .wait 1_000_000]
        ++ [.tx 0x0 false true, .wait 1_000, .tx 0x0 false false, .wait 50_000, .tx 0xC false true, .wait 1_000,
          .tx 0xC false false, .wait 50_000, .wait 1_000_000]
        ++ [.tx 0x0 false true, .wait 1_000, .tx 0x0 false false, .wait 50_000, .tx 0x1 false true, .wait 1_000,
          .tx 0x1 false false, .wait 50_000, .wait 2_000_000]
        ++ [.tx 0x0 false true, .wait 1_000, .tx 0x0 false false, .wait 50_000, .tx 0x6 false true, .wait 1_000,
          .tx 0x6 false false, .wait 50_000, .wait 1_000_000]
    ∧ imagesUnder true initProg =
      [0x3C, 0x38, 0x3C, 0x38, 0x3C, 0x38, 0x2C, 0x28, 0x2C, 0x28, 0x8C, 0x88, 0x0C, 0x08, 0xCC, 0xC8, 0x0C, 0x08,
        0x1C, 0x18, 0x0C, 0x08, 0x6C, 0x68]
    ∧ initProg.length = 57
    ∧ txCount initProg = 24
    ∧ waitCount initProg = 33
    ∧ minDuration initProg = 63_612_000

/-- R213 to R216, R224: WB_PROG is Clear and its wait, Home and its wait, then the rendered bytes in order as data; the
row-1 command and its wait stand immediately before index 16, once, and only where more than 16 bytes are rendered. -/
def Obligations.WriteProgramShape : Prop :=
  ∀ (len : Word7) (buf : List Byte), LegalWrite len buf →
    wbProg len buf =
      byteProg 0x01 false ++ [.wait 2_000_000] ++ byteProg 0x02 false ++ [.wait 2_000_000]
        ++ (buf.take 16).flatMap (fun b => byteProg b true)
        ++ (if min len.toNat 32 ≤ 16 then []
            else byteProg 0xC0 false ++ [.wait 1_000_000] ++ (buf.drop 16).flatMap (fun b => byteProg b true))

/-- R221, R222: the transactions, the waits and the minimum duration of a WRITE. -/
def Obligations.WriteProgramCounts : Prop :=
  ∀ (len : Word7) (buf : List Byte), LegalWrite len buf →
    ∀ ne r : Nat, ne = min len.toNat 32 → r = (if 16 < ne then 1 else 0) →
      txCount (wbProg len buf) = 4 * (2 + ne + r)
        ∧ waitCount (wbProg len buf) = 4 * (2 + ne + r) + 2 + r
        ∧ minDuration (wbProg len buf) = 4_000_000 + r * 1_000_000 + (2 + ne + r) * 102_000

/-- R134: every wait of the block's three micro-programs has a minimum of the table. -/
def Obligations.OnlyTheMinimumsOccur : Prop :=
  ∀ (len : Word7) (buf : List Byte) (t : Nat),
    MicroOp.wait t ∈ initProg ++ wbProg len buf ++ detachProg → t ∈ minimums

/-! ### The LCD reference state -/

/-- R65: whatever the LCD was, after INIT_PROG it is in the one configuration, with every cell BLANK and the cursor at
(0, 0). -/
def Obligations.InitMakesTheLcdKnown : Prop :=
  ∀ (c : Ctx) (s t : State), s.inst.trail = [] → runMicros c initProg s = .ok t →
    t.inst.trail = []
      ∧ t.inst.lcd = .known
          { cfg := ⟨true, true, true, true, false, false, true, false⟩
            cells := Vector.replicate 2 (Vector.replicate 16 .blank)
            row := 0
            col := 0 }

/-- R66, R67, R68: Clear, Home and the row-1 address-set, each with its wait, on a known LCD. That Clear homes the cursor
is the spec's general knowledge (R66). That no sequence is under way before and after is the model's field `trail`
(assumption log 7). -/
def Obligations.CommandsMoveTheLcd : Prop :=
  ∀ (c : Ctx) (s t : State) (r : LcdRec), s.inst.trail = [] → s.inst.lcd = .known r →
    (runMicros c (byteProg 0x01 false ++ [.wait 2_000_000]) s = .ok t →
        t.inst.lcd = .known { r with cells := Vector.replicate 2 (Vector.replicate 16 .blank), row := 0, col := 0 }
          ∧ t.inst.trail = [])
      ∧ (runMicros c (byteProg 0x02 false ++ [.wait 2_000_000]) s = .ok t →
        t.inst.lcd = .known { r with row := 0, col := 0 } ∧ t.inst.trail = [])
      ∧ (runMicros c (byteProg 0xC0 false ++ [.wait 1_000_000]) s = .ok t →
        t.inst.lcd = .known { r with row := 1, col := 0 } ∧ t.inst.trail = [])

/-- R69: a data byte on a known LCD writes the cell at the cursor and moves the cursor one column; at column 16 the LCD
becomes UNKNOWN. -/
def Obligations.DataWritesTheCell : Prop :=
  ∀ (c : Ctx) (s t : State) (b : Byte) (r : LcdRec), s.inst.trail = [] → s.inst.lcd = .known r →
    runMicros c (byteProg b true) s = .ok t →
      t.inst.trail = []
        ∧ (∀ h : r.col.val < 16,
          t.inst.lcd = .known { r with
            cells := r.cells.set r.row (r.cells[r.row].set r.col.val (.code b) h)
            col := ⟨r.col.val + 1, by omega⟩ })
        ∧ (r.col.val = 16 → t.inst.lcd = .unknown)

/-- R66 to R69, R210 to R216: a WRITE that completes on a known LCD shows its bytes. Whatever the display showed before,
cell (r, c) holds byte 16·r + c of those rendered, every other cell is BLANK, the configuration is as it was, and the
cursor stands after the last byte, at column 16 where a row is full. That Clear homes the cursor is general knowledge
(R66); that no sequence is under way before it is the model's field `trail` (assumption log 7). -/
def Obligations.WriteShowsItsBytes : Prop :=
  ∀ (c : Ctx) (s t : State) (r : LcdRec) (len : Word7) (buf : List Byte), s.inst.trail = [] →
    s.inst.lcd = .known r → LegalWrite len buf → runMicros c (wbProg len buf) s = .ok t →
      t.inst.trail = []
        ∧ ∃ r' : LcdRec, t.inst.lcd = .known r'
          ∧ r'.cfg = r.cfg
          ∧ (∀ (i : Fin 2) (j : Fin 16), r'.cells[i][j] =
              match buf[16 * i.val + j.val]? with
              | some b => .code b
              | none => .blank)
          ∧ (r'.row.val = if buf.length ≤ 16 then 0 else 1)
          ∧ (r'.col.val = if buf.length ≤ 16 then buf.length else buf.length - 16)

/-- R70: a raw nibble by itself, and a Clear that ends its operation with no wait after it, leave the LCD UNKNOWN. That no
sequence is under way before them is the model's field `trail` (assumption log 7). -/
def Obligations.OtherSequencesLoseTheLcd : Prop :=
  (∀ (c : Ctx) (s t : State) (v : Nibble), s.inst.trail = [] → v ≠ 0x0 → v ≠ 0xC →
      runMicros c (nibProg v false) s = .ok t → t.inst.lcd = .unknown)
    ∧ ∀ (c : Ctx) (s t : State), s.inst.trail = [] → s.inst.life = .detaching → s.inst.seq = some ⟨detachProg, 0⟩ →
      runMicros c detachProg s = .ok t → t.settle.inst.lcd = .unknown

/-! ### Requests -/

/-- R259: `IDLE` is no request. It changes no state and produces no result, and a step on it changes the request lines
alone. It stands on the lines when no caller is issuing. -/
def Obligations.IdleDoesNothing : Prop :=
  (∀ s : State, exec .idle s = .next s)
    ∧ (∀ (s : State) (r : Request), s.inst.refused = false → s.nextTurn = .host (.request r) → r.word = 0x0000 →
      step s = .next { s.dropTurn with port := r })
    ∧ State.reset.port.word = 0x0000

/-- R242, R243, R275: the capability is checked first, then the allocation. A failed check completes the ATTACH with its
error word, and changes nothing else: no transaction, no wait, no context. -/
def Obligations.AttachChecks : Prop :=
  ∀ (s : State) (addr : Word7), s.inst.life = .detached → s.peerHolds addr = false →
    (s.port.capOk = false →
      exec (.attach addr) s = .next { s with inst := { s.inst with attachResult := some 0x0001 } })
    ∧ (s.port.capOk = true → s.port.allocOk = false →
      exec (.attach addr) s = .next { s with inst := { s.inst with attachResult := some 0x0002 } })

/-- R244, R245: an accepted ATTACH latches its address, sets the backlight, takes the lock, and starts INIT_PROG at its
beginning; the first wait, of 50 ms, starts at this point. `opCaller` and `trail` are the model's fields (assumption logs
5 and 7). -/
def Obligations.AttachStarts : Prop :=
  ∀ (s : State) (addr : Word7), s.inst.life = .detached → s.peerHolds addr = false → s.port.capOk = true →
    s.port.allocOk = true →
      exec (.attach addr) s = .next { s with inst := { s.inst with
        ctx := some { addr := addr, backlight := true }
        life := .attaching
        lock := .held
        opCaller := some s.port.caller
        seq := some { prog := initProg, upc := 0 }
        fsm := s.inst.fsm.startInit
        dly := .running 50_000_000 s.now
        trail := [] } }

/-- R247, R248, R249: when INIT_PROG is at its end, the ATTACH waits for the host's `REG_OK`, and the block's own turns
change nothing; `REG_OK` completes it: READY with its context, or DETACHED without one; no transaction is issued either
way. The turn on which `REG_OK` comes, `opCaller`, the end of the program (`seq`), the premise on `trail` and the value of
the FSM registers without a context are the model's (assumption logs 11, 5, 13, 7, 3). -/
def Obligations.RegistrationEndsAttach : Prop :=
  ∀ (s : State) (c : Ctx) (upc : Nat), s.inst.refused = false → s.inst.life = .attaching → s.inst.ctx = some c →
    s.inst.seq = some ⟨initProg, upc⟩ → 57 ≤ upc → s.inst.trail = [] →
      (s.nextTurn = .single ∨ s.nextTurn = .whole → step s = .next s.dropTurn)
        ∧ (s.nextTurn = .register true →
          step s = .next { s.dropTurn with
            inst := { s.inst with
              life := .ready
              lock := .free
              seq := none
              opCaller := none
              attachResult := some 0x0000 } })
        ∧ (s.nextTurn = .register false →
          step s = .next { s.dropTurn with
            inst := { s.inst with
              life := .detached
              lock := .free
              ctx := none
              cur := none
              seq := none
              fsm := Fsm.reset
              dly := .idle
              opCaller := none
              attachResult := some 0x0004 } })

/-- R212, R30: a zero-length WRITE completes at once with `RES16{OK, 0, COUNT = 0}`, in READY and while another write runs,
and touches nothing else: no traffic, no lock, no program, no other caller's result. -/
def Obligations.EmptyWriteCompletesAtOnce : Prop :=
  ∀ s : State, s.inst.life = .ready ∨ s.inst.life = .writing → s.inst.outstanding s.port.caller = false →
    ∃ t, exec (.write 0) s = .next t
      ∧ t = { s with inst := { s.inst with result := assocPut s.port.caller 0x0000 s.inst.result } }
      ∧ t.inst.resultOf s.port.caller = some 0x0000
      ∧ ∀ other, other ≠ s.port.caller → t.inst.resultOf other = s.inst.resultOf other

/-- R25, R26, R30, R250: any other accepted WRITE blocks its caller, with its length and its first min(len,32) bytes
latched. The caller has no result until its request completes, and no other caller's result changes. That the stored word
stays beneath is the model's choice (assumption log 13). -/
def Obligations.WriteBlocksItsCaller : Prop :=
  ∀ (s : State) (len : Word7), s.inst.life = .ready ∨ s.inst.life = .writing →
    s.inst.outstanding s.port.caller = false → len ≠ 0 → len.toNat ≤ 64 →
      ∃ t, exec (.write len) s = .next t
        ∧ t = { s with inst := { s.inst with
          waiters := assocPut s.port.caller ⟨len, s.port.data.toList.take (min len.toNat 32)⟩ s.inst.waiters } }
        ∧ t.inst.resultOf s.port.caller = none
        ∧ ∀ other, other ≠ s.port.caller → t.inst.resultOf other = s.inst.resultOf other

/-- R251: in READY with blocked writers, the block's turn grants one of them, and every one of them is granted by some
pick. The pick is an open draw (assumption log 1); `trail` is the model's field (log 7). -/
def Obligations.GrantServesAWaiter : Prop :=
  ∀ (s : State) (k caller : Nat) (w : Waiter), s.inst.refused = false →
    s.nextTurn = .single ∨ s.nextTurn = .whole → s.inst.life = .ready → s.inst.seq = none →
      s.inst.waiters[k]? = some (caller, w) → s.nextPick % s.inst.waiters.length = k →
        step s = .next { s.dropTurn with
          env := { s.dropTurn.env with picks := s.env.picks.tail }
          inst := { s.inst with
            waiters := s.inst.waiters.eraseIdx k
            cur := some { caller := caller, len := w.len, buf := w.buf }
            life := .writing
            lock := .held
            seq := some { prog := wbProg w.len w.buf, upc := 0 }
            fsm := s.inst.fsm.startWrite w.len
            trail := [] } }

/-- R217, R223, R252: when the last wait of a WRITE ends, at that point its caller gets OK with `COUNT` = `len`, not
clamped, and the instance is READY with the lock FREE. That the moment is the step of the last wait's end is assumption log
11, and that no program is left (`seq`) log 13. The caller sees the word (R30), having nothing else outstanding (R240). -/
def Obligations.WriteCompletes : Prop :=
  ∀ (s : State) (c : Ctx) (w : Cur) (q : Seq) (t tStart : Nat), s.inst.refused = false →
    s.nextTurn = .single ∨ s.nextTurn = .whole → s.inst.life = .writing → s.inst.ctx = some c →
      s.inst.cur = some w → s.inst.seq = some q → q.prog.drop q.upc = [.wait t] →
        s.inst.dly = .running t tStart →
          ∃ u, step s = .next u
            ∧ u.inst.result = assocPut w.caller (BitVec.ofNat 16 (256 * w.len.toNat)) s.inst.result
            ∧ u.inst.life = .ready
            ∧ u.inst.lock = .free
            ∧ u.inst.cur = none
            ∧ u.inst.seq = none
            ∧ u.inst.ctx = s.inst.ctx
            ∧ u.inst.waiters = s.inst.waiters
            ∧ u.inst.attachResult = s.inst.attachResult
            ∧ u.inst.portLatch = s.inst.portLatch
            ∧ (assocGet w.caller s.inst.waiters = none → s.inst.opCaller ≠ some w.caller →
              u.inst.resultOf w.caller = some (BitVec.ofNat 16 (256 * w.len.toNat)))
            ∧ imagesOf u.inst.hist = imagesOf s.inst.hist

/-- R254: an accepted DETACH takes the lock and starts DETACH_PROG, which is the one Clear. `opCaller` and
`trail` are the model's fields (assumption logs 5 and 7). -/
def Obligations.DetachStarts : Prop :=
  ∀ s : State, s.inst.life = .ready → s.inst.waiters = [] →
    exec .detach s = .next { s with inst := { s.inst with
      life := .detaching
      lock := .held
      opCaller := some s.port.caller
      seq := some { prog := byteProg 0x01 false, upc := 0 }
      fsm := s.inst.fsm.startDetach
      trail := [] } }

/-- R258, R302: the refusal table. Each refused event sets the mark and names its row; the request gets no result, and
nothing else changes. A reset is defined at the start of a run alone, where every piece of state is at its reset value
already. The named row is the model's field `refusedBy` (assumption log 6). -/
def Obligations.RefusalTable : Prop :=
  ∀ (s : State) (addr len : Word7),
    let refusedAs (row : RefusalRow) : State :=
      { s with inst := { s.inst with refused := true, refusedBy := some (s.inst.refusedBy.getD row) } }
    (s.inst.life ≠ .detached → exec (.attach addr) s = .next (refusedAs .f2))
      ∧ (s.inst.life = .detached → s.peerHolds addr = true → exec (.attach addr) s = .next (refusedAs .f3))
      ∧ (len.toNat ≤ 64 → s.inst.life ≠ .ready → s.inst.life ≠ .writing →
        exec (.write len) s = .next (refusedAs .f4))
      ∧ (len.toNat ≤ 64 → s.inst.life = .ready ∨ s.inst.life = .writing →
        s.inst.outstanding s.port.caller = true → exec (.write len) s = .next (refusedAs .f5))
      ∧ (64 < len.toNat → exec (.write len) s = .next (refusedAs .f1))
      ∧ (s.inst.life ≠ .ready → exec .detach s = .next (refusedAs .f6))
      ∧ (s.inst.life = .ready → s.inst.waiters ≠ [] → exec .detach s = .next (refusedAs .f7))
      ∧ hostTurn .read s = .next (refusedAs .f8)
      ∧ hostTurn .control s = .next (refusedAs .f9)
      ∧ (s.inst ≠ Inst.reset → hostTurn .reset s = .next (refusedAs .resetWithinRun))
      ∧ (s.inst = Inst.reset → hostTurn .reset s = .next s)

/-! ### Whole-machine rules -/

/-- R22, R23, R157: within an attachment no turn changes the address or the backlight; the context stays as it is, or is
destroyed. -/
def Obligations.ContextIsFixedWithinAnAttachment : Prop :=
  ∀ (s t : State) (c : Ctx), s.inst.life ≠ .detached → s.inst.ctx = some c → (∀ k, s.nextTurn ≠ .focus k) →
    step s = .next t → t.inst.ctx = some c ∨ t.inst.ctx = none

/-- R32: nothing clears the refused mark. A step on a marked instance, whatever turn of it or of time comes, leaves it
marked; nor does any instruction, event or turn of the block clear it, though `step` runs none of these on a marked instance
(assumption log 12); nor does the change of focus, which leaves the instance itself as it is. -/
def Obligations.RefusedIsSticky : Prop :=
  (∀ s t : State, s.inst.refused = true → (∀ k, s.nextTurn ≠ .focus k) → step s = .next t → t.inst.refused = true)
    ∧ (∀ (s t : State) (k : Nat) (p : Inst), s.inst.refused = true → s.nextTurn = .focus k → s.peers[k]? = some p →
      step s = .next t → ∃ m, t.peers[k]? = some m ∧ m.refused = true)
    ∧ (∀ (i : Instr) (s t : State), s.inst.refused = true → exec i s = .next t → t.inst.refused = true)
    ∧ (∀ (e : HostEvent) (s t : State), s.inst.refused = true → hostTurn e s = .next t → t.inst.refused = true)
    ∧ (∀ (whole : Bool) (s t : State), s.inst.refused = true → blockTurn whole s = .next t → t.inst.refused = true)
    ∧ ∀ (ok : Bool) (s : State), s.inst.refused = true → (registerTurn ok s).inst.refused = true

/-- R35, R57: no turn rewrites `hist`: what was recorded stays, in its place, and what is new is appended. -/
def Obligations.HistoryOnlyGrows : Prop :=
  ∀ s t : State, (∀ k, s.nextTurn ≠ .focus k) → step s = .next t → ∃ new, t.inst.hist = s.inst.hist ++ new

/-- R59, R253: what a host presents while an operation runs never touches the bus or the operation: it adds nothing to
`hist`, and leaves the program, the mode, the lock, the request served, the wait in progress, the port, the LCD and the
time as they are. -/
def Obligations.RequestsDoNotDisturbAnOperation : Prop :=
  ∀ (s t : State) (e : HostEvent), s.nextTurn = .host e → s.inst.life.operation ≠ none → step s = .next t →
    t.inst.hist = s.inst.hist
      ∧ t.inst.seq = s.inst.seq
      ∧ t.inst.life = s.inst.life
      ∧ t.inst.lock = s.inst.lock
      ∧ t.inst.ctx = s.inst.ctx
      ∧ t.inst.cur = s.inst.cur
      ∧ t.inst.dly = s.inst.dly
      ∧ t.inst.fsm = s.inst.fsm
      ∧ t.inst.portLatch = s.inst.portLatch
      ∧ t.inst.lcd = s.inst.lcd
      ∧ t.now = s.now
      ∧ t.peers = s.peers

/-- R20, R256: instances are independent. A turn of the instance in focus leaves the others alone, and what it does
depends on them only through the addresses they hold (R241). -/
def Obligations.InstancesAreIndependent : Prop :=
  ∀ (s t : State) (others : List Inst), (∀ k, s.nextTurn ≠ .focus k) →
    others.map (fun p => p.ctx.map Ctx.addr) = s.peers.map (fun p => p.ctx.map Ctx.addr) →
      step s = .next t →
        t.peers = s.peers ∧ step { s with peers := others } = .next { t with peers := others }

/-- R60: bringing another instance into focus changes no instance: the k-th of the others and the one in focus change
places, and where there is no k-th nothing changes. That one instance is in focus is how the model holds a bus (assumption
log 8). -/
def Obligations.FocusChangesNoInstance : Prop :=
  ∀ (s t : State) (k : Nat), s.nextTurn = .focus k → step s = .next t →
    (t.inst :: t.peers).Perm (s.inst :: s.peers)
      ∧ t.now = s.now
      ∧ t.port = s.port
      ∧ (∀ p, s.peers[k]? = some p → t.inst = p ∧ t.peers = s.peers.set k s.inst)
      ∧ (s.peers[k]? = none → t = s.dropTurn)

/-! ### Invariants -/

/-- Reset satisfies the invariants. -/
def Obligations.ResetIsSound : Prop :=
  State.reset.All Inst.Sound ∧ State.reset.All (Inst.HistoryOk State.reset.now) ∧ State.reset.All Inst.FsmOk
    ∧ State.reset.AddressesApart

/-- Every step keeps every instance sound: the lock and the context follow the mode, the micro-program is the mode's and
`upc` stands inside it, a wait is in progress exactly where one stands at `upc`, requests and results are legal and in
canonical form. -/
def Obligations.StepKeepsInstancesSound : Prop :=
  ∀ s t : State, s.All Inst.Sound → step s = .next t → t.All Inst.Sound

/-- R58, R115, R130, R131, R82, R86: every step keeps every history sequential and legal: no two micro-operations of one
instance overlap, every wait starts when the entry before it ends and is no shorter than its minimum, and every image has
RW = 0 and the backlight on. -/
def Obligations.StepKeepsHistories : Prop :=
  ∀ s t : State, s.All Inst.Sound → s.All (Inst.HistoryOk s.now) → step s = .next t →
    t.All (Inst.HistoryOk t.now)

/-- R28: every step keeps the FSM registers in step with `prog` and `upc`. -/
def Obligations.StepKeepsTheFsm : Prop :=
  ∀ s t : State, s.All Inst.Sound → s.All Inst.FsmOk → step s = .next t → t.All Inst.FsmOk

/-- R241, R258 F3: every step keeps the addresses of the live instances on the bus apart. -/
def Obligations.StepKeepsAddressesApart : Prop :=
  ∀ s t : State, s.All Inst.Sound → s.AddressesApart → step s = .next t → t.AddressesApart

/-! ### Equivalences and whole operations -/

/-- R28, R151, R191: started for an operation, the nested FSM counters issue exactly the micro-operations of its program
and then none, whatever the registers held before. -/
def Obligations.FsmIssuesThePrograms : Prop :=
  ∀ f : Fsm,
    f.startInit.trace (some .init) [] (initProg.length + 1) = initProg
      ∧ (∀ (len : Word7) (buf : List Byte), LegalWrite len buf →
        (f.startWrite len).trace (some .write) buf ((wbProg len buf).length + 1) = wbProg len buf)
      ∧ f.startDetach.trace (some .detach) [] (detachProg.length + 1) = detachProg

/-- R97: an instruction taken whole does what its micro-operations do one by one. Where the micro-program of an
instruction stands at `upc` and no transaction of it fails, as many single turns as it has micro-operations lead to the
state in which its run, and so the one turn that takes it whole (`StepRunsTheWholeInstruction`), ends. The granularity of
turns is the model's choice (assumption log 11). -/
def Obligations.WholeTurnIsItsSingleTurns : Prop :=
  ∀ (s t : State) (c : Ctx) (q : Seq) (i : Instr) (rest : List MicroOp) (turns : List Turn),
    s.inst.refused = false → s.inst.ctx = some c → s.inst.seq = some q → s.inst.dly = .idle →
      i.format = .lcd9 ∨ i.format = .nib5 → q.prog.drop q.upc = expand i ++ rest →
        runMicros c (expand i) (s.withTurns turns) = .ok t →
          core.run (expand i).length
            (s.withTurns (List.replicate (expand i).length .single ++ turns)) = .next t.settle

/-- R241 to R249 under `ADAPTER_LIVE` with success: after an accepted ATTACH, 57 turns of the block, one for each
micro-operation of INIT_PROG, and `REG_OK`, the instance is READY, `attach_result` is OK, the 24 transactions of R190 have
been issued and no other, and the LCD is as R65 says. The count of turns is the model's (assumption log 11). -/
def Obligations.AttachRunsToReady : Prop :=
  ∀ (s : State) (addr : Word7) (caller : Nat) (data : Vector Byte 64) (turns : List Turn),
    s.inst.refused = false → s.inst.life = .detached → s.peerHolds addr = false → s.AdapterOk 24 →
      ∃ t, core.run 59 (s.withTurns
          (.host (.request ⟨req16 0 addr 0b01, caller, data, true, true⟩)
            :: (List.replicate 57 .single ++ .register true :: turns))) = .next t
        ∧ t.inst.life = .ready
        ∧ t.inst.lock = .free
        ∧ t.inst.ctx = some ⟨addr, true⟩
        ∧ t.inst.attachResult = some 0x0000
        ∧ imagesOf t.inst.hist = imagesOf s.inst.hist ++
            [0x3C, 0x38, 0x3C, 0x38, 0x3C, 0x38, 0x2C, 0x28, 0x2C, 0x28, 0x8C, 0x88, 0x0C, 0x08, 0xCC, 0xC8,
              0x0C, 0x08, 0x1C, 0x18, 0x0C, 0x08, 0x6C, 0x68]
        ∧ t.inst.lcd = .known .init
        ∧ t.inst.portLatch = .image 0x68

/-- R210, R217, R251, R252 under `ADAPTER_LIVE` with success: of the blocked WRITEs of an instance that is READY, the one
the pick names is granted and runs to its end in a turn for the grant and one for each micro-operation of its program,
with exactly its program's images; its caller gets `COUNT` = `len`, and the others stay blocked. The count of turns is the
model's (assumption log 11). -/
def Obligations.WriteRunsToCompletion : Prop :=
  ∀ (s : State) (c : Ctx) (k caller : Nat) (w : Waiter) (turns : List Turn),
    s.inst.refused = false → s.inst.life = .ready → s.inst.ctx = some c → s.inst.seq = none →
      s.inst.dly = .idle → s.inst.waiters[k]? = some (caller, w) → s.nextPick % s.inst.waiters.length = k →
        LegalWrite w.len w.buf → s.AdapterOk (txCount (wbProg w.len w.buf)) →
          ∃ t, core.run ((wbProg w.len w.buf).length + 1)
              (s.withTurns (List.replicate ((wbProg w.len w.buf).length + 1) .single ++ turns)) = .next t
            ∧ t.inst.life = .ready
            ∧ t.inst.lock = .free
            ∧ t.inst.cur = none
            ∧ t.inst.waiters = s.inst.waiters.eraseIdx k
            ∧ t.inst.ctx = some c
            ∧ t.inst.result = assocPut caller (BitVec.ofNat 16 (256 * w.len.toNat)) s.inst.result
            ∧ imagesOf t.inst.hist = imagesOf s.inst.hist
                ++ imagesUnder c.backlight (wbProg w.len w.buf)

/-- R38, R254 under `ADAPTER_LIVE`, whatever the outcomes: a DETACH that has started ends within as many turns as its
program has micro-operations DETACHED, with the lock FREE, no context, and OK for its caller. The count of turns is the
model's (assumption log 11). -/
def Obligations.DetachAlwaysEndsDetached : Prop :=
  ∀ (s : State) (c : Ctx) (caller : Nat) (turns : List Turn),
    s.inst.refused = false → s.inst.life = .detaching → s.inst.ctx = some c → s.inst.opCaller = some caller →
      s.inst.seq = some ⟨detachProg, 0⟩ → s.inst.dly = .idle →
        ∃ t, core.run 8 (s.withTurns (List.replicate 8 .single ++ turns)) = .next t
          ∧ t.inst.life = .detached
          ∧ t.inst.lock = .free
          ∧ t.inst.ctx = none
          ∧ t.inst.seq = none
          ∧ t.inst.result = assocPut caller 0x0000 s.inst.result

/-- R92, R180, R210, R254: the three micro-programs by their instructions. INIT_PROG, WB_PROG for every legal length, and
DETACH_PROG are instructions of the opcode table and waits, in which raw nibbles stand at INIT_PROG's steps 2 and 3 alone
and every other transfer is a whole byte. -/
def Obligations.ProgramsAreTheirInstructions : Prop :=
  (initProg = flat initParts ∧ partsOk initParts = true)
    ∧ (∀ (len : Word7) (buf : List Byte), LegalWrite len buf →
      wbProg len buf = flat (writeParts buf) ∧ partsOk (writeParts buf) = true)
    ∧ (detachProg = flat detachParts ∧ partsOk detachParts = true)
end

