-- ==== Sys2Proof/Laws/Assoc.lean ====
section
/-! SUPPORT. The laws of the keyed collections: a read after a write, and that a write keeps the canonical form. -/

namespace Sys2Proof.Machine

variable {α : Type}

theorem assocGet_put_self (k : Nat) (v : α) (l : List (Nat × α)) : assocGet k (assocPut k v l) = some v := by
  induction l with
  | nil => simp [assocPut, assocGet]
  | cons a l ih =>
    obtain ⟨k', v'⟩ := a
    simp only [assocPut]
    split
    · simp [assocGet]
    · split
      · simp [assocGet]
      · simp [assocGet, *]

theorem assocGet_put_ne (k k' : Nat) (v : α) (l : List (Nat × α)) (h : k' ≠ k) :
    assocGet k' (assocPut k v l) = assocGet k' l := by
  induction l with
  | nil => simp [assocPut, assocGet, h]
  | cons a l ih =>
    obtain ⟨j, w⟩ := a
    simp only [assocPut]
    split
    · simp [assocGet, h]
    · split
      · subst_vars
        simp [assocGet, h]
      · simp only [assocGet, ih]

/-- A key of the new collection is the key put or an old one. -/
theorem mem_assocPut {k : Nat} {v : α} {l : List (Nat × α)} {a : Nat × α} (h : a ∈ assocPut k v l) :
    a = (k, v) ∨ a ∈ l := by
  induction l with
  | nil => simpa [assocPut] using h
  | cons b l ih =>
    obtain ⟨j, w⟩ := b
    simp only [assocPut] at h
    split at h
    · simpa using h
    · split at h
      · rcases List.mem_cons.1 h with h | h
        · exact .inl h
        · exact .inr (List.mem_cons_of_mem _ h)
      · rcases List.mem_cons.1 h with h | h
        · exact .inr (h ▸ List.mem_cons_self)
        · exact (ih h).imp id (List.mem_cons_of_mem _)

/-- A write keeps the canonical form. -/
theorem assocWf_put (k : Nat) (v : α) (l : List (Nat × α)) (h : assocWf l) : assocWf (assocPut k v l) := by
  induction l with
  | nil => simp [assocWf, assocPut]
  | cons b l ih =>
    obtain ⟨j, w⟩ := b
    obtain ⟨hj, hl⟩ := List.pairwise_cons.1 h
    simp only [assocPut]
    split
    · refine List.pairwise_cons.2 ⟨fun a ha => ?_, h⟩
      rcases List.mem_cons.1 ha with rfl | ha
      · assumption
      · have := hj a ha
        simp only at this ⊢
        omega
    · split
      · subst_vars
        exact List.pairwise_cons.2 ⟨hj, hl⟩
      · refine List.pairwise_cons.2 ⟨fun a ha => ?_, ih hl⟩
        rcases mem_assocPut ha with rfl | ha
        · simp only
          omega
        · exact hj a ha

/-- Taking out an entry keeps the canonical form. -/
theorem assocWf_eraseIdx (k : Nat) (l : List (Nat × α)) (h : assocWf l) : assocWf (l.eraseIdx k) :=
  h.sublist (List.eraseIdx_sublist l k)

/-- In canonical form a key stands once: once its entry is taken out, it is gone. -/
theorem assocGet_eraseIdx (k : Nat) (l : List (Nat × α)) (a : Nat × α) (h : assocWf l) (hk : l[k]? = some a) :
    assocGet a.1 (l.eraseIdx k) = none := by
  induction l generalizing k with
  | nil => simp at hk
  | cons b l ih =>
    obtain ⟨hb, hl⟩ := List.pairwise_cons.1 h
    have absent : ∀ m : List (Nat × α), (∀ x ∈ m, a.1 < x.1) → assocGet a.1 m = none := by
      intro m
      induction m with
      | nil => simp [assocGet]
      | cons x m ihm =>
        intro hm
        have hx := hm x List.mem_cons_self
        simp only [assocGet, ihm fun y hy => hm y (List.mem_cons_of_mem _ hy)]
        split
        · omega
        · rfl
    cases k with
    | zero =>
      obtain rfl : b = a := by simpa using hk
      simpa using absent l hb
    | succ k =>
      have hk : l[k]? = some a := by simpa using hk
      have := hb a (List.mem_of_getElem? hk)
      simp only [List.eraseIdx_cons_succ, assocGet, ih k hl hk]
      split
      · omega
      · rfl

end Sys2Proof.Machine
end

