-- ==== Sys2Proof/Laws/Operands.lean ====
section
/-! SUPPORT. The small lemmas of the operand forms: the image by its fields, the nibble split, and the lengths of the
micro-programs. -/

namespace Sys2Proof.Machine

/-- The image of R81 is the PORT8 pattern of R80 with RW = 0. -/
theorem image_eq_port8 : ∀ (v : Nibble) (rs bl en : Bool), image v rs bl en = port8 v bl en false rs := by
  decide

/-- RW is 0 in every image (R82). -/
theorem image_rw : ∀ (v : Nibble) (rs bl en : Bool), (image v rs bl en).getLsbD 1 = false := by
  decide

/-- Bit 3 of an image is the backlight (R86). -/
theorem image_bl : ∀ (v : Nibble) (rs bl en : Bool), (image v rs bl en).getLsbD 3 = bl := by
  decide

/-- A result that is some value is that value. -/
theorem ok_of_toOption {ε α : Type} {r : Except ε α} {a : α} (h : r.toOption = some a) : r = .ok a := by
  cases r with
  | ok b => simpa [Except.toOption] using h
  | error e => simp [Except.toOption] at h

/-- An image decodes to the PORT8 instruction with its fields. -/
theorem decodePort8_image (v : Nibble) (rs bl en : Bool) :
    decodePort8 (image v rs bl en) = .ok (if en then .portEnHi v bl rs else .portEnLo v bl rs) := by
  have h : ∀ (v : Nibble) (rs bl en : Bool), (decodePort8 (image v rs bl en)).toOption =
      some (if en then .portEnHi v bl rs else .portEnLo v bl rs) := by decide
  exact ok_of_toOption (h v rs bl en)

/-- The nibbles of a byte put together from nibbles. -/
@[simp] theorem hiNibble_append : ∀ v u : Nibble, hiNibble (v ++ u) = v := by decide

@[simp] theorem loNibble_append : ∀ v u : Nibble, loNibble (v ++ u) = u := by decide

/-- A byte is its nibbles (R84). -/
@[simp] theorem append_nibbles (b : Byte) : hiNibble b ++ loNibble b = b := by
  have h : ∀ b : Byte, hiNibble b ++ loNibble b = b := by
    intro b
    apply BitVec.eq_of_toNat_eq
    simp only [hiNibble, loNibble, BitVec.toNat_append, BitVec.extractLsb'_toNat, Nat.shiftLeft_eq,
      Nat.shiftRight_eq_div_pow]
    have := b.isLt
    rw [← Nat.shiftLeft_eq, ← Nat.shiftLeft_add_eq_or_of_lt (by omega), Nat.shiftLeft_eq]
    omega
  exact h b

@[simp] theorem nibProg_length (v : Nibble) (rs : Bool) : (nibProg v rs).length = 4 := rfl

@[simp] theorem byteProg_length (b : Byte) (rs : Bool) : (byteProg b rs).length = 8 := rfl

/-- INIT_PROG has 57 micro-operations (R180). -/
@[simp] theorem initProg_length : initProg.length = 57 := rfl

@[simp] theorem detachProg_length : detachProg.length = 8 := rfl

/-- The rendered length is at most 32 (R211). -/
theorem effLen_le (len : Word7) : effLen len ≤ 32 := Nat.min_le_right _ _

end Sys2Proof.Machine
end

