-- ==== Sys2Proof/Laws/State.lean ====
section
/-! SUPPORT. One lemma per field per update, true by rfl, so that no later proof unfolds a record update. -/

namespace Sys2Proof.Machine

variable (i : Inst) (s : State)

/-! ### `Inst.refuse` -/

@[simp] theorem Inst.refuse_life (row : RefusalRow) : (i.refuse row).life = i.life := rfl
@[simp] theorem Inst.refuse_ctx (row : RefusalRow) : (i.refuse row).ctx = i.ctx := rfl
@[simp] theorem Inst.refuse_lock (row : RefusalRow) : (i.refuse row).lock = i.lock := rfl
@[simp] theorem Inst.refuse_waiters (row : RefusalRow) : (i.refuse row).waiters = i.waiters := rfl
@[simp] theorem Inst.refuse_cur (row : RefusalRow) : (i.refuse row).cur = i.cur := rfl
@[simp] theorem Inst.refuse_seq (row : RefusalRow) : (i.refuse row).seq = i.seq := rfl
@[simp] theorem Inst.refuse_fsm (row : RefusalRow) : (i.refuse row).fsm = i.fsm := rfl
@[simp] theorem Inst.refuse_dly (row : RefusalRow) : (i.refuse row).dly = i.dly := rfl
@[simp] theorem Inst.refuse_result (row : RefusalRow) : (i.refuse row).result = i.result := rfl
@[simp] theorem Inst.refuse_attachResult (row : RefusalRow) : (i.refuse row).attachResult = i.attachResult := rfl
@[simp] theorem Inst.refuse_refused (row : RefusalRow) : (i.refuse row).refused = true := rfl
@[simp] theorem Inst.refuse_portLatch (row : RefusalRow) : (i.refuse row).portLatch = i.portLatch := rfl
@[simp] theorem Inst.refuse_lcd (row : RefusalRow) : (i.refuse row).lcd = i.lcd := rfl
@[simp] theorem Inst.refuse_hist (row : RefusalRow) : (i.refuse row).hist = i.hist := rfl
@[simp] theorem Inst.refuse_opCaller (row : RefusalRow) : (i.refuse row).opCaller = i.opCaller := rfl
@[simp] theorem Inst.refuse_refusedBy (row : RefusalRow) : (i.refuse row).refusedBy = some (i.refusedBy.getD row) := rfl
@[simp] theorem Inst.refuse_trail (row : RefusalRow) : (i.refuse row).trail = i.trail := rfl

/-! ### `Inst.destroyCtx` -/

@[simp] theorem Inst.destroyCtx_life : (i.destroyCtx).life = .detached := rfl
@[simp] theorem Inst.destroyCtx_ctx : (i.destroyCtx).ctx = none := rfl
@[simp] theorem Inst.destroyCtx_lock : (i.destroyCtx).lock = .free := rfl
@[simp] theorem Inst.destroyCtx_waiters : (i.destroyCtx).waiters = i.waiters := rfl
@[simp] theorem Inst.destroyCtx_cur : (i.destroyCtx).cur = none := rfl
@[simp] theorem Inst.destroyCtx_seq : (i.destroyCtx).seq = none := rfl
@[simp] theorem Inst.destroyCtx_fsm : (i.destroyCtx).fsm = Fsm.reset := rfl
@[simp] theorem Inst.destroyCtx_dly : (i.destroyCtx).dly = .idle := rfl
@[simp] theorem Inst.destroyCtx_result : (i.destroyCtx).result = i.result := rfl
@[simp] theorem Inst.destroyCtx_attachResult : (i.destroyCtx).attachResult = i.attachResult := rfl
@[simp] theorem Inst.destroyCtx_refused : (i.destroyCtx).refused = i.refused := rfl
@[simp] theorem Inst.destroyCtx_portLatch : (i.destroyCtx).portLatch = i.portLatch := rfl
@[simp] theorem Inst.destroyCtx_lcd : (i.destroyCtx).lcd = i.lcd := rfl
@[simp] theorem Inst.destroyCtx_hist : (i.destroyCtx).hist = i.hist := rfl
@[simp] theorem Inst.destroyCtx_opCaller : (i.destroyCtx).opCaller = none := rfl
@[simp] theorem Inst.destroyCtx_refusedBy : (i.destroyCtx).refusedBy = i.refusedBy := rfl
@[simp] theorem Inst.destroyCtx_trail : (i.destroyCtx).trail = i.trail := rfl

/-! ### `Inst.failAttach` -/

@[simp] theorem Inst.failAttach_life (r : Result) : (i.failAttach r).life = .detached := rfl
@[simp] theorem Inst.failAttach_ctx (r : Result) : (i.failAttach r).ctx = none := rfl
@[simp] theorem Inst.failAttach_lock (r : Result) : (i.failAttach r).lock = .free := rfl
@[simp] theorem Inst.failAttach_waiters (r : Result) : (i.failAttach r).waiters = i.waiters := rfl
@[simp] theorem Inst.failAttach_cur (r : Result) : (i.failAttach r).cur = none := rfl
@[simp] theorem Inst.failAttach_seq (r : Result) : (i.failAttach r).seq = none := rfl
@[simp] theorem Inst.failAttach_fsm (r : Result) : (i.failAttach r).fsm = Fsm.reset := rfl
@[simp] theorem Inst.failAttach_dly (r : Result) : (i.failAttach r).dly = .idle := rfl
@[simp] theorem Inst.failAttach_result (r : Result) : (i.failAttach r).result = i.result := rfl
@[simp] theorem Inst.failAttach_attachResult (r : Result) : (i.failAttach r).attachResult = some r.word := rfl
@[simp] theorem Inst.failAttach_refused (r : Result) : (i.failAttach r).refused = i.refused := rfl
@[simp] theorem Inst.failAttach_portLatch (r : Result) : (i.failAttach r).portLatch = i.portLatch := rfl
@[simp] theorem Inst.failAttach_lcd (r : Result) : (i.failAttach r).lcd = i.lcd := rfl
@[simp] theorem Inst.failAttach_hist (r : Result) : (i.failAttach r).hist = i.hist := rfl
@[simp] theorem Inst.failAttach_opCaller (r : Result) : (i.failAttach r).opCaller = none := rfl
@[simp] theorem Inst.failAttach_refusedBy (r : Result) : (i.failAttach r).refusedBy = i.refusedBy := rfl
@[simp] theorem Inst.failAttach_trail (r : Result) : (i.failAttach r).trail = i.trail := rfl

/-! ### `Inst.endAttach` -/

@[simp] theorem Inst.endAttach_life : (i.endAttach).life = .ready := rfl
@[simp] theorem Inst.endAttach_ctx : (i.endAttach).ctx = i.ctx := rfl
@[simp] theorem Inst.endAttach_lock : (i.endAttach).lock = .free := rfl
@[simp] theorem Inst.endAttach_waiters : (i.endAttach).waiters = i.waiters := rfl
@[simp] theorem Inst.endAttach_cur : (i.endAttach).cur = i.cur := rfl
@[simp] theorem Inst.endAttach_seq : (i.endAttach).seq = none := rfl
@[simp] theorem Inst.endAttach_fsm : (i.endAttach).fsm = i.fsm := rfl
@[simp] theorem Inst.endAttach_dly : (i.endAttach).dly = i.dly := rfl
@[simp] theorem Inst.endAttach_result : (i.endAttach).result = i.result := rfl
@[simp] theorem Inst.endAttach_attachResult : (i.endAttach).attachResult = some (Result.ok 0).word := rfl
@[simp] theorem Inst.endAttach_refused : (i.endAttach).refused = i.refused := rfl
@[simp] theorem Inst.endAttach_portLatch : (i.endAttach).portLatch = i.portLatch := rfl
@[simp] theorem Inst.endAttach_lcd : (i.endAttach).lcd = i.lcd := rfl
@[simp] theorem Inst.endAttach_hist : (i.endAttach).hist = i.hist := rfl
@[simp] theorem Inst.endAttach_opCaller : (i.endAttach).opCaller = none := rfl
@[simp] theorem Inst.endAttach_refusedBy : (i.endAttach).refusedBy = i.refusedBy := rfl
@[simp] theorem Inst.endAttach_trail : (i.endAttach).trail = i.trail := rfl

/-! ### `Inst.endWrite` -/

@[simp] theorem Inst.endWrite_life (r : Result) : (i.endWrite r).life = .ready := rfl
@[simp] theorem Inst.endWrite_ctx (r : Result) : (i.endWrite r).ctx = i.ctx := rfl
@[simp] theorem Inst.endWrite_lock (r : Result) : (i.endWrite r).lock = .free := rfl
@[simp] theorem Inst.endWrite_waiters (r : Result) : (i.endWrite r).waiters = i.waiters := rfl
@[simp] theorem Inst.endWrite_cur (r : Result) : (i.endWrite r).cur = none := rfl
@[simp] theorem Inst.endWrite_seq (r : Result) : (i.endWrite r).seq = none := rfl
@[simp] theorem Inst.endWrite_fsm (r : Result) : (i.endWrite r).fsm = i.fsm := rfl
@[simp] theorem Inst.endWrite_dly (r : Result) : (i.endWrite r).dly = i.dly := rfl
@[simp] theorem Inst.endWrite_result (r : Result) : (i.endWrite r).result = (match i.cur with | none => i.result | some c => assocPut c.caller r.word i.result) := rfl
@[simp] theorem Inst.endWrite_attachResult (r : Result) : (i.endWrite r).attachResult = i.attachResult := rfl
@[simp] theorem Inst.endWrite_refused (r : Result) : (i.endWrite r).refused = i.refused := rfl
@[simp] theorem Inst.endWrite_portLatch (r : Result) : (i.endWrite r).portLatch = i.portLatch := rfl
@[simp] theorem Inst.endWrite_lcd (r : Result) : (i.endWrite r).lcd = i.lcd := rfl
@[simp] theorem Inst.endWrite_hist (r : Result) : (i.endWrite r).hist = i.hist := rfl
@[simp] theorem Inst.endWrite_opCaller (r : Result) : (i.endWrite r).opCaller = i.opCaller := rfl
@[simp] theorem Inst.endWrite_refusedBy (r : Result) : (i.endWrite r).refusedBy = i.refusedBy := rfl
@[simp] theorem Inst.endWrite_trail (r : Result) : (i.endWrite r).trail = i.trail := rfl

/-! ### `Inst.endDetach` -/

@[simp] theorem Inst.endDetach_life : (i.endDetach).life = .detached := rfl
@[simp] theorem Inst.endDetach_ctx : (i.endDetach).ctx = none := rfl
@[simp] theorem Inst.endDetach_lock : (i.endDetach).lock = .free := rfl
@[simp] theorem Inst.endDetach_waiters : (i.endDetach).waiters = i.waiters := rfl
@[simp] theorem Inst.endDetach_cur : (i.endDetach).cur = none := rfl
@[simp] theorem Inst.endDetach_seq : (i.endDetach).seq = none := rfl
@[simp] theorem Inst.endDetach_fsm : (i.endDetach).fsm = Fsm.reset := rfl
@[simp] theorem Inst.endDetach_dly : (i.endDetach).dly = .idle := rfl
@[simp] theorem Inst.endDetach_result : (i.endDetach).result = (match i.opCaller with | none => i.result | some c => assocPut c (Result.ok 0).word i.result) := rfl
@[simp] theorem Inst.endDetach_attachResult : (i.endDetach).attachResult = i.attachResult := rfl
@[simp] theorem Inst.endDetach_refused : (i.endDetach).refused = i.refused := rfl
@[simp] theorem Inst.endDetach_portLatch : (i.endDetach).portLatch = i.portLatch := rfl
@[simp] theorem Inst.endDetach_lcd : (i.endDetach).lcd = i.lcd := rfl
@[simp] theorem Inst.endDetach_hist : (i.endDetach).hist = i.hist := rfl
@[simp] theorem Inst.endDetach_opCaller : (i.endDetach).opCaller = none := rfl
@[simp] theorem Inst.endDetach_refusedBy : (i.endDetach).refusedBy = i.refusedBy := rfl
@[simp] theorem Inst.endDetach_trail : (i.endDetach).trail = i.trail := rfl

/-! ### `Inst.closeTrail` -/

@[simp] theorem Inst.closeTrail_life : (i.closeTrail).life = i.life := rfl
@[simp] theorem Inst.closeTrail_ctx : (i.closeTrail).ctx = i.ctx := rfl
@[simp] theorem Inst.closeTrail_lock : (i.closeTrail).lock = i.lock := rfl
@[simp] theorem Inst.closeTrail_waiters : (i.closeTrail).waiters = i.waiters := rfl
@[simp] theorem Inst.closeTrail_cur : (i.closeTrail).cur = i.cur := rfl
@[simp] theorem Inst.closeTrail_seq : (i.closeTrail).seq = i.seq := rfl
@[simp] theorem Inst.closeTrail_fsm : (i.closeTrail).fsm = i.fsm := rfl
@[simp] theorem Inst.closeTrail_dly : (i.closeTrail).dly = i.dly := rfl
@[simp] theorem Inst.closeTrail_result : (i.closeTrail).result = i.result := rfl
@[simp] theorem Inst.closeTrail_attachResult : (i.closeTrail).attachResult = i.attachResult := rfl
@[simp] theorem Inst.closeTrail_refused : (i.closeTrail).refused = i.refused := rfl
@[simp] theorem Inst.closeTrail_portLatch : (i.closeTrail).portLatch = i.portLatch := rfl
@[simp] theorem Inst.closeTrail_lcd : (i.closeTrail).lcd = lcdAtEnd i.lcd i.trail := rfl
@[simp] theorem Inst.closeTrail_hist : (i.closeTrail).hist = i.hist := rfl
@[simp] theorem Inst.closeTrail_opCaller : (i.closeTrail).opCaller = i.opCaller := rfl
@[simp] theorem Inst.closeTrail_refusedBy : (i.closeTrail).refusedBy = i.refusedBy := rfl
@[simp] theorem Inst.closeTrail_trail : (i.closeTrail).trail = [] := rfl

/-! ### `Inst.loseLcd` -/

@[simp] theorem Inst.loseLcd_life : (i.loseLcd).life = i.life := rfl
@[simp] theorem Inst.loseLcd_ctx : (i.loseLcd).ctx = i.ctx := rfl
@[simp] theorem Inst.loseLcd_lock : (i.loseLcd).lock = i.lock := rfl
@[simp] theorem Inst.loseLcd_waiters : (i.loseLcd).waiters = i.waiters := rfl
@[simp] theorem Inst.loseLcd_cur : (i.loseLcd).cur = i.cur := rfl
@[simp] theorem Inst.loseLcd_seq : (i.loseLcd).seq = i.seq := rfl
@[simp] theorem Inst.loseLcd_fsm : (i.loseLcd).fsm = i.fsm := rfl
@[simp] theorem Inst.loseLcd_dly : (i.loseLcd).dly = i.dly := rfl
@[simp] theorem Inst.loseLcd_result : (i.loseLcd).result = i.result := rfl
@[simp] theorem Inst.loseLcd_attachResult : (i.loseLcd).attachResult = i.attachResult := rfl
@[simp] theorem Inst.loseLcd_refused : (i.loseLcd).refused = i.refused := rfl
@[simp] theorem Inst.loseLcd_portLatch : (i.loseLcd).portLatch = i.portLatch := rfl
@[simp] theorem Inst.loseLcd_lcd : (i.loseLcd).lcd = .unknown := rfl
@[simp] theorem Inst.loseLcd_hist : (i.loseLcd).hist = i.hist := rfl
@[simp] theorem Inst.loseLcd_opCaller : (i.loseLcd).opCaller = i.opCaller := rfl
@[simp] theorem Inst.loseLcd_refusedBy : (i.loseLcd).refusedBy = i.refusedBy := rfl
@[simp] theorem Inst.loseLcd_trail : (i.loseLcd).trail = [] := rfl

/-! ### `Inst.advance` -/

@[simp] theorem Inst.advance_life (m : MicroOp) : (i.advance m).life = i.life := rfl
@[simp] theorem Inst.advance_ctx (m : MicroOp) : (i.advance m).ctx = i.ctx := rfl
@[simp] theorem Inst.advance_lock (m : MicroOp) : (i.advance m).lock = i.lock := rfl
@[simp] theorem Inst.advance_waiters (m : MicroOp) : (i.advance m).waiters = i.waiters := rfl
@[simp] theorem Inst.advance_cur (m : MicroOp) : (i.advance m).cur = i.cur := rfl
@[simp] theorem Inst.advance_seq (m : MicroOp) : (i.advance m).seq = i.seq.map (fun q => { q with upc := q.upc + 1 }) := rfl
@[simp] theorem Inst.advance_fsm (m : MicroOp) : (i.advance m).fsm = i.fsm.after i.life.operation ((i.cur.map Cur.buf).getD []) m := rfl
@[simp] theorem Inst.advance_dly (m : MicroOp) : (i.advance m).dly = i.dly := rfl
@[simp] theorem Inst.advance_result (m : MicroOp) : (i.advance m).result = i.result := rfl
@[simp] theorem Inst.advance_attachResult (m : MicroOp) : (i.advance m).attachResult = i.attachResult := rfl
@[simp] theorem Inst.advance_refused (m : MicroOp) : (i.advance m).refused = i.refused := rfl
@[simp] theorem Inst.advance_portLatch (m : MicroOp) : (i.advance m).portLatch = i.portLatch := rfl
@[simp] theorem Inst.advance_lcd (m : MicroOp) : (i.advance m).lcd = (lcdAfter m i.lcd i.trail).1 := rfl
@[simp] theorem Inst.advance_hist (m : MicroOp) : (i.advance m).hist = i.hist := rfl
@[simp] theorem Inst.advance_opCaller (m : MicroOp) : (i.advance m).opCaller = i.opCaller := rfl
@[simp] theorem Inst.advance_refusedBy (m : MicroOp) : (i.advance m).refusedBy = i.refusedBy := rfl
@[simp] theorem Inst.advance_trail (m : MicroOp) : (i.advance m).trail = (lcdAfter m i.lcd i.trail).2 := rfl

/-! ### `Inst.startAttach` -/

@[simp] theorem Inst.startAttach_life (a : Word7) (n now : Nat) : (i.startAttach a n now).life = .attaching := rfl
@[simp] theorem Inst.startAttach_ctx (a : Word7) (n now : Nat) : (i.startAttach a n now).ctx = some ⟨a, true⟩ := rfl
@[simp] theorem Inst.startAttach_lock (a : Word7) (n now : Nat) : (i.startAttach a n now).lock = .held := rfl
@[simp] theorem Inst.startAttach_waiters (a : Word7) (n now : Nat) : (i.startAttach a n now).waiters = i.waiters := rfl
@[simp] theorem Inst.startAttach_cur (a : Word7) (n now : Nat) : (i.startAttach a n now).cur = i.cur := rfl
@[simp] theorem Inst.startAttach_seq (a : Word7) (n now : Nat) : (i.startAttach a n now).seq = some ⟨initProg, 0⟩ := rfl
@[simp] theorem Inst.startAttach_fsm (a : Word7) (n now : Nat) : (i.startAttach a n now).fsm = i.fsm.startInit := rfl
@[simp] theorem Inst.startAttach_dly (a : Word7) (n now : Nat) : (i.startAttach a n now).dly = .running tPower now := rfl
@[simp] theorem Inst.startAttach_result (a : Word7) (n now : Nat) : (i.startAttach a n now).result = i.result := rfl
@[simp] theorem Inst.startAttach_attachResult (a : Word7) (n now : Nat) : (i.startAttach a n now).attachResult = i.attachResult := rfl
@[simp] theorem Inst.startAttach_refused (a : Word7) (n now : Nat) : (i.startAttach a n now).refused = i.refused := rfl
@[simp] theorem Inst.startAttach_portLatch (a : Word7) (n now : Nat) : (i.startAttach a n now).portLatch = i.portLatch := rfl
@[simp] theorem Inst.startAttach_lcd (a : Word7) (n now : Nat) : (i.startAttach a n now).lcd = i.lcd := rfl
@[simp] theorem Inst.startAttach_hist (a : Word7) (n now : Nat) : (i.startAttach a n now).hist = i.hist := rfl
@[simp] theorem Inst.startAttach_opCaller (a : Word7) (n now : Nat) : (i.startAttach a n now).opCaller = some n := rfl
@[simp] theorem Inst.startAttach_refusedBy (a : Word7) (n now : Nat) : (i.startAttach a n now).refusedBy = i.refusedBy := rfl
@[simp] theorem Inst.startAttach_trail (a : Word7) (n now : Nat) : (i.startAttach a n now).trail = [] := rfl

/-! ### `Inst.startDetach` -/

@[simp] theorem Inst.startDetach_life (n : Nat) : (i.startDetach n).life = .detaching := rfl
@[simp] theorem Inst.startDetach_ctx (n : Nat) : (i.startDetach n).ctx = i.ctx := rfl
@[simp] theorem Inst.startDetach_lock (n : Nat) : (i.startDetach n).lock = .held := rfl
@[simp] theorem Inst.startDetach_waiters (n : Nat) : (i.startDetach n).waiters = i.waiters := rfl
@[simp] theorem Inst.startDetach_cur (n : Nat) : (i.startDetach n).cur = i.cur := rfl
@[simp] theorem Inst.startDetach_seq (n : Nat) : (i.startDetach n).seq = some ⟨detachProg, 0⟩ := rfl
@[simp] theorem Inst.startDetach_fsm (n : Nat) : (i.startDetach n).fsm = i.fsm.startDetach := rfl
@[simp] theorem Inst.startDetach_dly (n : Nat) : (i.startDetach n).dly = i.dly := rfl
@[simp] theorem Inst.startDetach_result (n : Nat) : (i.startDetach n).result = i.result := rfl
@[simp] theorem Inst.startDetach_attachResult (n : Nat) : (i.startDetach n).attachResult = i.attachResult := rfl
@[simp] theorem Inst.startDetach_refused (n : Nat) : (i.startDetach n).refused = i.refused := rfl
@[simp] theorem Inst.startDetach_portLatch (n : Nat) : (i.startDetach n).portLatch = i.portLatch := rfl
@[simp] theorem Inst.startDetach_lcd (n : Nat) : (i.startDetach n).lcd = i.lcd := rfl
@[simp] theorem Inst.startDetach_hist (n : Nat) : (i.startDetach n).hist = i.hist := rfl
@[simp] theorem Inst.startDetach_opCaller (n : Nat) : (i.startDetach n).opCaller = some n := rfl
@[simp] theorem Inst.startDetach_refusedBy (n : Nat) : (i.startDetach n).refusedBy = i.refusedBy := rfl
@[simp] theorem Inst.startDetach_trail (n : Nat) : (i.startDetach n).trail = [] := rfl

/-! ### `State.mapInst` -/

@[simp] theorem State.mapInst_inst (f : Inst → Inst) : (s.mapInst f).inst = f s.inst := rfl
@[simp] theorem State.mapInst_peers (f : Inst → Inst) : (s.mapInst f).peers = s.peers := rfl
@[simp] theorem State.mapInst_port (f : Inst → Inst) : (s.mapInst f).port = s.port := rfl
@[simp] theorem State.mapInst_now (f : Inst → Inst) : (s.mapInst f).now = s.now := rfl
@[simp] theorem State.mapInst_env (f : Inst → Inst) : (s.mapInst f).env = s.env := rfl

/-! ### `State.dropTurn` -/

@[simp] theorem State.dropTurn_inst : (s.dropTurn).inst = s.inst := rfl
@[simp] theorem State.dropTurn_peers : (s.dropTurn).peers = s.peers := rfl
@[simp] theorem State.dropTurn_port : (s.dropTurn).port = s.port := rfl
@[simp] theorem State.dropTurn_now : (s.dropTurn).now = s.now := rfl
@[simp] theorem State.dropTurn_env : (s.dropTurn).env = { s.env with turns := s.env.turns.tail } := rfl

/-! ### `State.pass` -/

@[simp] theorem State.pass_inst (dt : Nat) : (s.pass dt).inst = s.inst := rfl
@[simp] theorem State.pass_peers (dt : Nat) : (s.pass dt).peers = s.peers := rfl
@[simp] theorem State.pass_port (dt : Nat) : (s.pass dt).port = s.port := rfl
@[simp] theorem State.pass_now (dt : Nat) : (s.pass dt).now = s.now + dt := rfl
@[simp] theorem State.pass_env (dt : Nat) : (s.pass dt).env = s.env := rfl

/-! ### `State.refuse` -/

@[simp] theorem State.refuse_inst (row : RefusalRow) : (s.refuse row).inst = s.inst.refuse row := rfl
@[simp] theorem State.refuse_peers (row : RefusalRow) : (s.refuse row).peers = s.peers := rfl
@[simp] theorem State.refuse_port (row : RefusalRow) : (s.refuse row).port = s.port := rfl
@[simp] theorem State.refuse_now (row : RefusalRow) : (s.refuse row).now = s.now := rfl
@[simp] theorem State.refuse_env (row : RefusalRow) : (s.refuse row).env = s.env := rfl

/-! ### `transmit` -/

@[simp] theorem transmit_peers (a : Word7) (img : Byte) : (transmit a img s).peers = s.peers := rfl
@[simp] theorem transmit_port (a : Word7) (img : Byte) : (transmit a img s).port = s.port := rfl
@[simp] theorem transmit_now (a : Word7) (img : Byte) : (transmit a img s).now = s.txDone := rfl
@[simp] theorem transmit_env (a : Word7) (img : Byte) : (transmit a img s).env = { s.env with txs := s.env.txs.tail } := rfl
@[simp] theorem transmit_inst_life (a : Word7) (img : Byte) : (transmit a img s).inst.life = s.inst.life := rfl
@[simp] theorem transmit_inst_ctx (a : Word7) (img : Byte) : (transmit a img s).inst.ctx = s.inst.ctx := rfl
@[simp] theorem transmit_inst_lock (a : Word7) (img : Byte) : (transmit a img s).inst.lock = s.inst.lock := rfl
@[simp] theorem transmit_inst_waiters (a : Word7) (img : Byte) : (transmit a img s).inst.waiters = s.inst.waiters := rfl
@[simp] theorem transmit_inst_cur (a : Word7) (img : Byte) : (transmit a img s).inst.cur = s.inst.cur := rfl
@[simp] theorem transmit_inst_seq (a : Word7) (img : Byte) : (transmit a img s).inst.seq = s.inst.seq := rfl
@[simp] theorem transmit_inst_fsm (a : Word7) (img : Byte) : (transmit a img s).inst.fsm = s.inst.fsm := rfl
@[simp] theorem transmit_inst_dly (a : Word7) (img : Byte) : (transmit a img s).inst.dly = s.inst.dly := rfl
@[simp] theorem transmit_inst_result (a : Word7) (img : Byte) : (transmit a img s).inst.result = s.inst.result := rfl
@[simp] theorem transmit_inst_attachResult (a : Word7) (img : Byte) : (transmit a img s).inst.attachResult = s.inst.attachResult := rfl
@[simp] theorem transmit_inst_refused (a : Word7) (img : Byte) : (transmit a img s).inst.refused = s.inst.refused := rfl
@[simp] theorem transmit_inst_portLatch (a : Word7) (img : Byte) : (transmit a img s).inst.portLatch = latchAfter img s.nextTx.status := rfl
@[simp] theorem transmit_inst_lcd (a : Word7) (img : Byte) : (transmit a img s).inst.lcd = s.inst.lcd := rfl
@[simp] theorem transmit_inst_hist (a : Word7) (img : Byte) : (transmit a img s).inst.hist = s.inst.hist ++ [.tx s.now s.txDone a img s.nextTx.status] := rfl
@[simp] theorem transmit_inst_opCaller (a : Word7) (img : Byte) : (transmit a img s).inst.opCaller = s.inst.opCaller := rfl
@[simp] theorem transmit_inst_refusedBy (a : Word7) (img : Byte) : (transmit a img s).inst.refusedBy = s.inst.refusedBy := rfl
@[simp] theorem transmit_inst_trail (a : Word7) (img : Byte) : (transmit a img s).inst.trail = s.inst.trail := rfl

/-! ### `startWait` -/

@[simp] theorem startWait_peers (t : Nat) : (startWait t s).peers = s.peers := rfl
@[simp] theorem startWait_port (t : Nat) : (startWait t s).port = s.port := rfl
@[simp] theorem startWait_now (t : Nat) : (startWait t s).now = s.now := rfl
@[simp] theorem startWait_env (t : Nat) : (startWait t s).env = s.env := rfl
@[simp] theorem startWait_inst_life (t : Nat) : (startWait t s).inst.life = s.inst.life := rfl
@[simp] theorem startWait_inst_ctx (t : Nat) : (startWait t s).inst.ctx = s.inst.ctx := rfl
@[simp] theorem startWait_inst_lock (t : Nat) : (startWait t s).inst.lock = s.inst.lock := rfl
@[simp] theorem startWait_inst_waiters (t : Nat) : (startWait t s).inst.waiters = s.inst.waiters := rfl
@[simp] theorem startWait_inst_cur (t : Nat) : (startWait t s).inst.cur = s.inst.cur := rfl
@[simp] theorem startWait_inst_seq (t : Nat) : (startWait t s).inst.seq = s.inst.seq := rfl
@[simp] theorem startWait_inst_fsm (t : Nat) : (startWait t s).inst.fsm = s.inst.fsm := rfl
@[simp] theorem startWait_inst_dly (t : Nat) : (startWait t s).inst.dly = .running t s.now := rfl
@[simp] theorem startWait_inst_result (t : Nat) : (startWait t s).inst.result = s.inst.result := rfl
@[simp] theorem startWait_inst_attachResult (t : Nat) : (startWait t s).inst.attachResult = s.inst.attachResult := rfl
@[simp] theorem startWait_inst_refused (t : Nat) : (startWait t s).inst.refused = s.inst.refused := rfl
@[simp] theorem startWait_inst_portLatch (t : Nat) : (startWait t s).inst.portLatch = s.inst.portLatch := rfl
@[simp] theorem startWait_inst_lcd (t : Nat) : (startWait t s).inst.lcd = s.inst.lcd := rfl
@[simp] theorem startWait_inst_hist (t : Nat) : (startWait t s).inst.hist = s.inst.hist := rfl
@[simp] theorem startWait_inst_opCaller (t : Nat) : (startWait t s).inst.opCaller = s.inst.opCaller := rfl
@[simp] theorem startWait_inst_refusedBy (t : Nat) : (startWait t s).inst.refusedBy = s.inst.refusedBy := rfl
@[simp] theorem startWait_inst_trail (t : Nat) : (startWait t s).inst.trail = s.inst.trail := rfl

end Sys2Proof.Machine
end

