-- ==== Sys2Proof/Laws/Ops.lean ====
section
/-! SUPPORT. One lemma per shared operation that says once everything it can do, which proofs cite instead of unfolding
it; and the small lemmas of the draws. -/

namespace Sys2Proof.Machine

/-! ### Draws -/

@[simp] theorem Draws.head_cons {α : Type} (free : Nat → α) (a : α) (l : List α) (n : Nat) :
    Draws.head free ⟨a :: l, n⟩ = a := rfl

@[simp] theorem Draws.tail_cons {α : Type} (a : α) (l : List α) (n : Nat) : Draws.tail ⟨a :: l, n⟩ = ⟨l, n⟩ := rfl

/-- A pushed turn is the next turn. -/
@[simp] theorem State.nextTurn_pushTurn (t : Turn) (s : State) : (s.pushTurn t).nextTurn = t := rfl

/-- Taking the pushed turn gives the state before it was pushed. -/
@[simp] theorem State.dropTurn_pushTurn (t : Turn) (s : State) : (s.pushTurn t).dropTurn = s := rfl

theorem State.nextTx_eq_txAt (s : State) : s.nextTx = s.txAt 0 := rfl

theorem State.txDone_eq (s : State) : s.txDone = s.now + s.txTime 0 := rfl

@[simp] theorem State.nextTx_dropTurn (s : State) : s.dropTurn.nextTx = s.nextTx := rfl

@[simp] theorem State.nextOver_dropTurn (s : State) : s.dropTurn.nextOver = s.nextOver := rfl

@[simp] theorem State.txAt_transmit (n : Nat) (a : Word7) (img : Byte) (s : State) :
    (transmit a img s).txAt n = s.txAt (n + 1) := rfl

/-! ### The end of an operation -/

@[simp] theorem Inst.advance_atEnd_none (m : MicroOp) (i : Inst) (h : i.seq = none) : (i.advance m).atEnd = false := by
  simp [Inst.atEnd, h]

/-- Where a program is at its end, no wait stands at `upc`. -/
theorem Inst.waitHere_of_atEnd {i : Inst} (h : i.atEnd = true) : i.waitHere = none := by
  unfold Inst.atEnd at h
  unfold Inst.waitHere
  split
  · rfl
  · rename_i q hq
    simp only [hq, decide_eq_true_eq] at h
    simp [List.getElem?_eq_none h]

/-- The wait at `upc` is the micro-operation that stands there. -/
theorem Inst.waitHere_eq_some {i : Inst} {t : Nat} :
    i.waitHere = some t ↔ ∃ q, i.seq = some q ∧ q.prog[q.upc]? = some (.wait t) := by
  unfold Inst.waitHere
  split
  · simp [*]
  · split <;> simp [*]

/-- No wait stands at `upc` where no program runs. -/
@[simp] theorem Inst.waitHere_of_no_seq {i : Inst} (h : i.seq = none) : i.waitHere = none := by
  simp [Inst.waitHere, h]

/-- What the beginning of a wait can do: nothing, or a wait in progress from now on. -/
theorem Inst.beginWait_cases (now : Nat) (i : Inst) :
    ((i.waitHere = none ∨ i.dly ≠ .idle) ∧ i.beginWait now = i)
      ∨ ∃ t, i.dly = .idle ∧ i.waitHere = some t ∧ i.beginWait now = { i with dly := .running t now } := by
  unfold Inst.beginWait
  split
  · exact .inr ⟨_, ‹_›, ‹_›, rfl⟩
  · exact .inl ⟨.inl ‹_›, rfl⟩
  · rename_i h
    exact .inl ⟨.inr (by simp [h]), rfl⟩

/-- What `settle` can do: the end of the operation, the beginning of the wait at `upc`, or nothing. -/
theorem State.settle_cases (s : State) :
    (s.inst.atEnd = true ∧ s.settle = s.mapInst Inst.complete)
      ∨ (s.inst.atEnd = false ∧ ∃ t, s.inst.dly = .idle ∧ s.inst.waitHere = some t
        ∧ s.settle = s.mapInst (fun i => { i with dly := .running t s.now }))
      ∨ (s.inst.atEnd = false ∧ (s.inst.waitHere = none ∨ s.inst.dly ≠ .idle) ∧ s.settle = s) := by
  unfold State.settle
  split
  · exact .inl ⟨‹_›, rfl⟩
  · rename_i h
    have h : s.inst.atEnd = false := by simpa using h
    rcases s.inst.beginWait_cases s.now with ⟨hw, he⟩ | ⟨t, hd, hw, he⟩
    · exact .inr (.inr ⟨h, hw, by simp [State.mapInst, he]⟩)
    · exact .inr (.inl ⟨h, t, hd, hw, by simp [State.mapInst, he]⟩)

/-- After `settle` a wait is in progress exactly where one stands at `upc`, if none was in progress before. -/
theorem State.settle_delayOk {s : State} (h : s.inst.dly = .idle) : s.settle.inst.DelayOk := by
  rcases s.settle_cases with ⟨ha, he⟩ | ⟨_, t, _, hw, he⟩ | ⟨_, hw, he⟩
  · rw [he]
    have hn := Inst.waitHere_of_atEnd ha
    unfold State.mapInst Inst.complete
    split <;> simp_all [Inst.DelayOk, Inst.endWrite, Inst.endDetach, Inst.destroyCtx, Inst.closeTrail, Inst.waitHere]
  · rw [he]
    have hw' : ({ s.inst with dly := .running t s.now } : Inst).waitHere = some t := hw
    simp [Inst.DelayOk, State.mapInst, hw']
  · rw [he]
    simp_all [Inst.DelayOk]

/-- REG_OK ends the ATTACH that waits for it, and nothing else (R247). -/
theorem registerTurn_cases (ok : Bool) (s : State) :
    (s.inst.life = .attaching ∧ s.inst.atEnd = true ∧ registerTurn ok s = s.mapInst (Inst.endRegistration ok))
      ∨ registerTurn ok s = s := by
  unfold registerTurn
  split
  · exact .inl ⟨(‹_ ∧ _›).1, (‹_ ∧ _›).2, rfl⟩
  · exact .inr rfl

/-- `atEnd` by the program and `upc`. -/
theorem Inst.atEnd_of_seq {i : Inst} {q : Seq} (h : i.seq = some q) : i.atEnd = decide (q.prog.length ≤ q.upc) := by
  simp [Inst.atEnd, h]

/-- Where a micro-operation stands at `upc`, the program is not at its end. -/
theorem Inst.not_atEnd_of_drop {i : Inst} {q : Seq} {m : MicroOp} {l : List MicroOp} (h : i.seq = some q)
    (hd : q.prog.drop q.upc = m :: l) : i.atEnd = false := by
  have hlen : (q.prog.drop q.upc).length = l.length + 1 := by rw [hd]; rfl
  rw [List.length_drop] at hlen
  rw [Inst.atEnd_of_seq h, decide_eq_false_iff_not]
  omega

/-- Moving `upc` past a micro-operation leaves what follows it. -/
theorem drop_succ_of_drop {l rest : List MicroOp} {n : Nat} {m : MicroOp} (h : l.drop n = m :: rest) :
    l.drop (n + 1) = rest := by
  rw [← List.drop_drop, h]
  rfl

/-! ### Transactions and waits -/

/-- What a transaction as a micro-operation can do: success and one further, or the abort. -/
theorem txMicro_cases (addr : Word7) (img : Byte) (m : MicroOp) (s : State) :
    (s.nextTx.status = .ok ∧ txMicro addr img m s = .ok ((transmit addr img s).mapInst (Inst.advance m)))
      ∨ ∃ kind, s.nextTx.status = .err kind
        ∧ txMicro addr img m s = .aborted ((transmit addr img s).mapInst (Inst.abort kind)) := by
  unfold txMicro
  cases h : s.nextTx.status with
  | ok => exact .inl ⟨rfl, rfl⟩
  | err kind => exact .inr ⟨kind, rfl, rfl⟩

/-- A wait without anything in between lasts its minimum and its excess. -/
theorem waitWhole_eq (t : Nat) (s : State) :
    waitWhole t s = { s with
      now := s.now + t + s.nextOver
      env := { s.env with overs := s.env.overs.tail }
      inst := Inst.advance (.wait t) { s.inst with
        dly := .idle
        hist := s.inst.hist ++ [.wait s.now (s.now + t + s.nextOver) t] } } := by
  have h : max s.now (s.now + t) = s.now + t := by omega
  simp only [waitWhole, finishWait, startWait, State.mapInst, State.waitEnd, State.nextOver, h]

/-- An abort ends the operation, whichever it is. -/
@[simp] theorem Inst.abort_seq (kind : TxKind) (i : Inst) : (i.abort kind).seq = none := by
  unfold Inst.abort
  split <;> rfl

@[simp] theorem Inst.abort_hist (kind : TxKind) (i : Inst) : (i.abort kind).hist = i.hist := by
  unfold Inst.abort
  split <;> rfl

@[simp] theorem Inst.abort_portLatch (kind : TxKind) (i : Inst) : (i.abort kind).portLatch = i.portLatch := by
  unfold Inst.abort
  split <;> rfl

@[simp] theorem Inst.abort_lcd (kind : TxKind) (i : Inst) : (i.abort kind).lcd = .unknown := by
  unfold Inst.abort
  split <;> rfl

@[simp] theorem Inst.abort_trail (kind : TxKind) (i : Inst) : (i.abort kind).trail = [] := by
  unfold Inst.abort
  split <;> rfl

@[simp] theorem Inst.abort_waiters (kind : TxKind) (i : Inst) : (i.abort kind).waiters = i.waiters := by
  unfold Inst.abort
  split <;> rfl

@[simp] theorem Inst.abort_refused (kind : TxKind) (i : Inst) : (i.abort kind).refused = i.refused := by
  unfold Inst.abort
  split <;> rfl

@[simp] theorem Inst.abort_refusedBy (kind : TxKind) (i : Inst) : (i.abort kind).refusedBy = i.refusedBy := by
  unfold Inst.abort
  split <;> rfl

@[simp] theorem Inst.complete_hist (i : Inst) : i.complete.hist = i.hist := by
  unfold Inst.complete
  split <;> rfl

@[simp] theorem Inst.complete_refused (i : Inst) : i.complete.refused = i.refused := by
  unfold Inst.complete
  split <;> rfl

@[simp] theorem Inst.complete_refusedBy (i : Inst) : i.complete.refusedBy = i.refusedBy := by
  unfold Inst.complete
  split <;> rfl

@[simp] theorem Inst.complete_portLatch (i : Inst) : i.complete.portLatch = i.portLatch := by
  unfold Inst.complete
  split <;> rfl

@[simp] theorem Inst.complete_waiters (i : Inst) : i.complete.waiters = i.waiters := by
  unfold Inst.complete
  split <;> rfl

/-! ### The beginning of a wait: all but `dly` as before -/

@[simp] theorem Inst.beginWait_life (now : Nat) (i : Inst) : (i.beginWait now).life = i.life := by
  unfold Inst.beginWait
  split <;> rfl

@[simp] theorem Inst.beginWait_ctx (now : Nat) (i : Inst) : (i.beginWait now).ctx = i.ctx := by
  unfold Inst.beginWait
  split <;> rfl

@[simp] theorem Inst.beginWait_lock (now : Nat) (i : Inst) : (i.beginWait now).lock = i.lock := by
  unfold Inst.beginWait
  split <;> rfl

@[simp] theorem Inst.beginWait_waiters (now : Nat) (i : Inst) : (i.beginWait now).waiters = i.waiters := by
  unfold Inst.beginWait
  split <;> rfl

@[simp] theorem Inst.beginWait_cur (now : Nat) (i : Inst) : (i.beginWait now).cur = i.cur := by
  unfold Inst.beginWait
  split <;> rfl

@[simp] theorem Inst.beginWait_seq (now : Nat) (i : Inst) : (i.beginWait now).seq = i.seq := by
  unfold Inst.beginWait
  split <;> rfl

@[simp] theorem Inst.beginWait_fsm (now : Nat) (i : Inst) : (i.beginWait now).fsm = i.fsm := by
  unfold Inst.beginWait
  split <;> rfl

@[simp] theorem Inst.beginWait_result (now : Nat) (i : Inst) : (i.beginWait now).result = i.result := by
  unfold Inst.beginWait
  split <;> rfl

@[simp] theorem Inst.beginWait_attachResult (now : Nat) (i : Inst) : (i.beginWait now).attachResult = i.attachResult := by
  unfold Inst.beginWait
  split <;> rfl

@[simp] theorem Inst.beginWait_refused (now : Nat) (i : Inst) : (i.beginWait now).refused = i.refused := by
  unfold Inst.beginWait
  split <;> rfl

@[simp] theorem Inst.beginWait_portLatch (now : Nat) (i : Inst) : (i.beginWait now).portLatch = i.portLatch := by
  unfold Inst.beginWait
  split <;> rfl

@[simp] theorem Inst.beginWait_lcd (now : Nat) (i : Inst) : (i.beginWait now).lcd = i.lcd := by
  unfold Inst.beginWait
  split <;> rfl

@[simp] theorem Inst.beginWait_hist (now : Nat) (i : Inst) : (i.beginWait now).hist = i.hist := by
  unfold Inst.beginWait
  split <;> rfl

@[simp] theorem Inst.beginWait_opCaller (now : Nat) (i : Inst) : (i.beginWait now).opCaller = i.opCaller := by
  unfold Inst.beginWait
  split <;> rfl

@[simp] theorem Inst.beginWait_refusedBy (now : Nat) (i : Inst) : (i.beginWait now).refusedBy = i.refusedBy := by
  unfold Inst.beginWait
  split <;> rfl

@[simp] theorem Inst.beginWait_trail (now : Nat) (i : Inst) : (i.beginWait now).trail = i.trail := by
  unfold Inst.beginWait
  split <;> rfl

/-! ### `settle`: what neither the end of an operation nor the beginning of a wait changes -/

@[simp] theorem State.settle_peers (s : State) : s.settle.peers = s.peers := by
  unfold State.settle
  split <;> rfl

@[simp] theorem State.settle_port (s : State) : s.settle.port = s.port := by
  unfold State.settle
  split <;> rfl

@[simp] theorem State.settle_now (s : State) : s.settle.now = s.now := by
  unfold State.settle
  split <;> rfl

@[simp] theorem State.settle_env (s : State) : s.settle.env = s.env := by
  unfold State.settle
  split <;> rfl

@[simp] theorem State.settle_inst_hist (s : State) : s.settle.inst.hist = s.inst.hist := by
  unfold State.settle
  split <;> simp [State.mapInst]

@[simp] theorem State.settle_inst_refused (s : State) : s.settle.inst.refused = s.inst.refused := by
  unfold State.settle
  split <;> simp [State.mapInst]

@[simp] theorem State.settle_inst_refusedBy (s : State) : s.settle.inst.refusedBy = s.inst.refusedBy := by
  unfold State.settle
  split <;> simp [State.mapInst]

@[simp] theorem State.settle_inst_portLatch (s : State) : s.settle.inst.portLatch = s.inst.portLatch := by
  unfold State.settle
  split <;> simp [State.mapInst]

@[simp] theorem State.settle_inst_waiters (s : State) : s.settle.inst.waiters = s.inst.waiters := by
  unfold State.settle
  split <;> simp [State.mapInst]

/-! ### Micro-programs -/

@[simp] theorem runMicros_nil (c : Ctx) (s : State) : runMicros c [] s = .ok s := rfl

theorem runMicros_single (c : Ctx) (m : MicroOp) (s : State) : runMicros c [m] s = runMicro c m s := by
  simp only [runMicros]
  cases runMicro c m s <;> rfl

/-- A run of two micro-programs is the run of the first, then of the second. -/
theorem runMicros_append (c : Ctx) (a b : List MicroOp) (s : State) :
    runMicros c (a ++ b) s =
      match runMicros c a s with
      | .ok s' => runMicros c b s'
      | .aborted s' => .aborted s' := by
  induction a generalizing s with
  | nil => rfl
  | cons m a ih =>
    simp only [List.cons_append, runMicros]
    cases runMicro c m s with
    | ok s' => exact ih s'
    | aborted s' => rfl

/-- A run that goes on has gone on after its first micro-operation. -/
theorem runMicros_cons_ok {c : Ctx} {m : MicroOp} {ms : List MicroOp} {s t : State}
    (h : runMicros c (m :: ms) s = .ok t) : ∃ u, runMicro c m s = .ok u ∧ runMicros c ms u = .ok t := by
  simp only [runMicros] at h
  cases hm : runMicro c m s with
  | ok u => exact ⟨u, rfl, by simpa [hm] using h⟩
  | aborted u => simp [hm] at h

/-- A run that was aborted was aborted by its first micro-operation, or after it. -/
theorem runMicros_cons_aborted {c : Ctx} {m : MicroOp} {ms : List MicroOp} {s t : State}
    (h : runMicros c (m :: ms) s = .aborted t) :
    runMicro c m s = .aborted t ∨ ∃ u, runMicro c m s = .ok u ∧ runMicros c ms u = .aborted t := by
  simp only [runMicros] at h
  cases hm : runMicro c m s with
  | ok u => exact .inr ⟨u, rfl, by simpa [hm] using h⟩
  | aborted u => exact .inl (by simpa [hm] using h)

/-- A micro-operation that succeeds: a transaction with status OK, or a wait. -/
theorem runMicro_ok {c : Ctx} {m : MicroOp} {s t : State} (h : runMicro c m s = .ok t) :
    (∃ v rs en, m = .tx v rs en ∧ s.nextTx.status = .ok
        ∧ t = (transmit c.addr (image v rs c.backlight en) s).mapInst (Inst.advance m))
      ∨ ∃ n, m = .wait n ∧ t = waitWhole n s := by
  cases m with
  | tx v rs en =>
    rcases txMicro_cases c.addr (image v rs c.backlight en) (.tx v rs en) s with ⟨hs, he⟩ | ⟨kind, _, he⟩
    · exact .inl ⟨v, rs, en, rfl, hs, by simpa [runMicro, he] using h.symm⟩
    · simp [runMicro, he] at h
  | wait n => exact .inr ⟨n, rfl, by simpa [runMicro] using h.symm⟩

/-- A micro-operation that aborts is a transaction whose status is a failure. -/
theorem runMicro_aborted {c : Ctx} {m : MicroOp} {s t : State} (h : runMicro c m s = .aborted t) :
    ∃ v rs en kind, m = .tx v rs en ∧ s.nextTx.status = .err kind
      ∧ t = (transmit c.addr (image v rs c.backlight en) s).mapInst (Inst.abort kind) := by
  cases m with
  | tx v rs en =>
    rcases txMicro_cases c.addr (image v rs c.backlight en) (.tx v rs en) s with ⟨_, he⟩ | ⟨kind, hs, he⟩
    · simp [runMicro, he] at h
    · exact ⟨v, rs, en, kind, rfl, hs, by simpa [runMicro, he] using h.symm⟩
  | wait n => simp [runMicro] at h

/-- What a run that goes on does to the LCD reference state: each micro-operation in turn. -/
theorem runMicros_lcd {c : Ctx} {ms : List MicroOp} {s t : State} (h : runMicros c ms s = .ok t) :
    (t.inst.lcd, t.inst.trail) = ms.foldl (fun p m => lcdAfter m p.1 p.2) (s.inst.lcd, s.inst.trail) := by
  induction ms generalizing s with
  | nil =>
    obtain rfl : s = t := by simpa using h
    rfl
  | cons m ms ih =>
    obtain ⟨u, hu, hr⟩ := runMicros_cons_ok h
    rw [ih hr, List.foldl_cons]
    rcases runMicro_ok hu with ⟨v, rs, en, rfl, _, rfl⟩ | ⟨n, rfl, rfl⟩
    · rfl
    · rw [waitWhole_eq]
      rfl

/-- When a micro-program's instruction answers a next state: an operation runs, and the state is the end of the run. -/
theorem underOperation_next {s t : State} {run : Ctx → Ran} (h : underOperation s run = .next t) :
    ∃ c q, s.inst.ctx = some c ∧ s.inst.seq = some q ∧ t = (run c).finish := by
  unfold underOperation at h
  split at h
  · rename_i c q hc hq
    exact ⟨c, q, hc, hq, by simpa using h.symm⟩
  · simp at h
  · simp at h

/-- And when an operation runs it answers one. -/
theorem underOperation_running {s : State} {c : Ctx} {q : Seq} (run : Ctx → Ran) (hc : s.inst.ctx = some c)
    (hq : s.inst.seq = some q) : underOperation s run = .next (run c).finish := by
  simp [underOperation, hc, hq]

end Sys2Proof.Machine
end

