-- ==== Sys2Proof/Laws/Fetch.lean ====
section
/-! SUPPORT. What the fetch finds at `upc`: the instruction it answers is the one whose micro-program stands there, so that
every turn of the block is a run of the first micro-operations of what is left of `prog`. -/

namespace Sys2Proof.Machine

theorem nibAt_nibProg (v : Nibble) (rs : Bool) (l : List MicroOp) : nibAt (nibProg v rs ++ l) = some (rs, v, l) := by
  simp [nibAt, nibProg]

/-- What `nibAt` answers stands at the beginning. -/
theorem nibAt_some {l rest : List MicroOp} {rs : Bool} {v : Nibble} (h : nibAt l = some (rs, v, rest)) :
    l = nibProg v rs ++ rest := by
  cases l with
  | nil => simp [nibAt] at h
  | cons m l =>
    cases m with
    | wait t => simp [nibAt] at h
    | tx v' rs' en =>
      cases en with
      | false => simp [nibAt] at h
      | true =>
        simp only [nibAt] at h
        split at h
        · rename_i ht
          obtain ⟨rfl, rfl, rfl⟩ : rs' = rs ∧ v' = v ∧ l.drop 3 = rest := by simpa using h
          rw [← List.take_append_drop 3 l, ht]
          simp [nibProg]
        · simp at h

/-- The raw nibbles the decoder knows, by the word's fields. -/
theorem decodeNib5_ok : ∀ (rs : Bool) (v : Nibble) (i : Instr), (decodeNib5 (nib5 rs v)).toOption = some i →
    expand i = nibProg v rs ∧ i.format = .nib5 := by
  intro rs v i h
  have : ∀ (rs : Bool) (v : Nibble), (decodeNib5 (nib5 rs v)).toOption =
      (if rs = false ∧ v = 3 then some .initNib3 else if rs = false ∧ v = 2 then some .initNib2 else none) := by
    decide
  rw [this] at h
  split at h
  · rename_i hv
    obtain ⟨rfl, rfl⟩ := hv
    obtain rfl : Instr.initNib3 = i := by simpa using h
    exact ⟨rfl, rfl⟩
  · split at h
    · rename_i hv
      obtain ⟨rfl, rfl⟩ := hv
      obtain rfl : Instr.initNib2 = i := by simpa using h
      exact ⟨rfl, rfl⟩
    · simp at h

/-- The commands and data bytes the decoder knows, by the word's fields. -/
theorem decodeLcd9_ok : ∀ (rs : Bool) (b : Byte) (i : Instr), (decodeLcd9 (lcd9 rs b)).toOption = some i →
    expand i = byteProg b rs ∧ i.format = .lcd9 := by
  intro rs b i h
  have data : ∀ b : Byte, (decodeLcd9 (lcd9 true b)).toOption = some (.data b) := by decide
  have command : ∀ b : Byte, (decodeLcd9 (lcd9 false b)).toOption =
      (if b = 0x28 then some .functionSet else if b = 0x0C then some .displayControl
        else if b = 0x01 then some .clear else if b = 0x06 then some .entryModeSet
        else if b = 0x02 then some .home else if b = 0xC0 then some .setDdramRow1 else none) := by decide
  cases rs with
  | true =>
    rw [data] at h
    obtain rfl : Instr.data b = i := by simpa using h
    exact ⟨rfl, rfl⟩
  | false =>
    rw [command] at h
    split at h
    · subst_vars; obtain rfl := by simpa using h
      exact ⟨rfl, rfl⟩
    split at h
    · subst_vars; obtain rfl := by simpa using h
      exact ⟨rfl, rfl⟩
    split at h
    · subst_vars; obtain rfl := by simpa using h
      exact ⟨rfl, rfl⟩
    split at h
    · subst_vars; obtain rfl := by simpa using h
      exact ⟨rfl, rfl⟩
    split at h
    · subst_vars; obtain rfl := by simpa using h
      exact ⟨rfl, rfl⟩
    split at h
    · subst_vars; obtain rfl := by simpa using h
      exact ⟨rfl, rfl⟩
    · simp at h

/-- The whole instruction the fetch answers: its micro-program stands at the beginning. -/
theorem wholeAt_some {l : List MicroOp} {i : Instr} (h : wholeAt l = some i) :
    (∃ rest, l = expand i ++ rest) ∧ (i.format = .nib5 ∨ i.format = .lcd9) := by
  unfold wholeAt at h
  split at h
  · simp at h
  · rename_i rs hi l' hl
    have hl := nibAt_some hl
    split at h
    · obtain ⟨he, hf⟩ := decodeNib5_ok _ _ _ h
      exact ⟨⟨l', by rw [he, hl]⟩, .inl hf⟩
    · rename_i rs' lo rest hl'
      have hl' := nibAt_some hl'
      split at h
      · rename_i hrs
        obtain ⟨he, hf⟩ := decodeLcd9_ok _ _ _ h
        subst hrs
        exact ⟨⟨rest, by rw [he, hl, hl', byteProg]; simp⟩, .inr hf⟩
      · simp at h

/-- A NIB5 or LCD9 instruction is the run of its micro-program. -/
theorem exec_eq_execProgram {i : Instr} (h : i.format = .nib5 ∨ i.format = .lcd9) (s : State) :
    exec i s = execProgram (expand i) s := by
  cases i <;> first | rfl | simp [Instr.format] at h

/-- A PORT8 instruction with the backlight of the context is the run of its one transaction. -/
theorem exec_port {s : State} {c : Ctx} {q : Seq} (hc : s.inst.ctx = some c) (hq : s.inst.seq = some q) (v : Nibble)
    (rs en : Bool) :
    exec (if en then .portEnHi v c.backlight rs else .portEnLo v c.backlight rs) s
      = .next (runMicros c [.tx v rs en] s).finish := by
  rw [runMicros_single]
  cases en <;> simp [exec, execPortEnHi, execPortEnLo, execImage, underOperation_running _ hc hq, runMicro]

/-- What the reading from the start finds at a position stands there. -/
theorem wholeFrom_some {k n : Nat} {l : List MicroOp} {i : Instr} (h : wholeFrom k l n = some i) :
    wholeAt (l.drop n) = some i := by
  induction l generalizing k n with
  | nil => simp [wholeFrom] at h
  | cons m l ih =>
    cases n with
    | zero =>
      cases k with
      | zero => simpa [wholeFrom] using h
      | succ k => simp [wholeFrom] at h
    | succ n => cases k <;> simp only [wholeFrom] at h <;> simpa using ih h

/-- What the fetch can answer while an operation runs: the end of the program, the wait at `upc`, or an instruction whose
micro-program stands there and whose meaning is the run of it. -/
theorem fetchAt_cases (whole : Bool) {s : State} {c : Ctx} {q : Seq} (hc : s.inst.ctx = some c)
    (hq : s.inst.seq = some q) :
    (q.prog.length ≤ q.upc ∧ fetchAt whole c.backlight q = .finish)
      ∨ (∃ t rest, q.prog.drop q.upc = .wait t :: rest ∧ fetchAt whole c.backlight q = .wait t)
      ∨ ∃ i v rs en ms rest, q.prog.drop q.upc = .tx v rs en :: (ms ++ rest)
        ∧ fetchAt whole c.backlight q = .instr i
        ∧ exec i s = .next (runMicros c (.tx v rs en :: ms) s).finish := by
  unfold fetchAt
  split
  · rename_i hd
    exact .inl ⟨by simpa using hd, rfl⟩
  · rename_i t l hd
    exact .inr (.inl ⟨t, l, hd, rfl⟩)
  · rename_i v rs en l hd
    refine .inr (.inr ?_)
    split
    · rename_i i hi
      have hw : wholeAt (q.prog.drop q.upc) = some i := by
        cases whole
        · simp at hi
        · exact wholeFrom_some (by simpa using hi)
      obtain ⟨⟨rest, hr⟩, hf⟩ := wholeAt_some hw
      have hx : ∃ ms, expand i = .tx v rs en :: ms ∧ l = ms ++ rest := by
        rw [hd] at hr
        cases he : expand i with
        | nil => cases i <;> simp [expand, nibProg, byteProg, Instr.format] at he hf
        | cons m ms =>
          rw [he] at hr
          obtain ⟨rfl, rfl⟩ := List.cons_eq_cons.1 hr
          exact ⟨ms, rfl, rfl⟩
      obtain ⟨ms, he, rfl⟩ := hx
      exact ⟨i, v, rs, en, ms, rest, hd, rfl, by
        rw [exec_eq_execProgram hf, execProgram, underOperation_running _ hc hq, he]⟩
    · exact ⟨_, v, rs, en, [], l, by simpa using hd, by simp only [fetchTx, decodePort8_image], exec_port hc hq v rs en⟩

/-- What the fetch can answer. -/
theorem fetch_cases (whole : Bool) (s : State) :
    (s.inst.seq = none ∧ s.inst.life = .ready ∧ s.inst.waiters ≠ [] ∧ fetch whole s = .grant)
      ∨ (s.inst.seq = none ∧ ¬ (s.inst.life = .ready ∧ s.inst.waiters ≠ []) ∧ fetch whole s = .nothing)
      ∨ (s.inst.seq.isSome ∧ s.inst.ctx = none ∧ fetch whole s = .noContext)
      ∨ ∃ c q, s.inst.ctx = some c ∧ s.inst.seq = some q ∧ fetch whole s = fetchAt whole c.backlight q := by
  unfold fetch
  split
  · rename_i hq
    split
    · rename_i hg
      exact .inl ⟨hq, hg.1, hg.2, rfl⟩
    · exact .inr (.inl ⟨hq, ‹_›, rfl⟩)
  · rename_i q hq hc
    exact .inr (.inr (.inl ⟨by simp [hq], hc, rfl⟩))
  · rename_i q c hq hc
    exact .inr (.inr (.inr ⟨c, q, hc, hq, rfl⟩))

end Sys2Proof.Machine
end

