-- ==== Sys2Proof/Laws/PerInstr.lean ====
section
/-! SUPPORT. Facts about every instruction as syntax, one lemma per constructor: its word fits its format and matches its
row of spec/opcode_table.json. -/

namespace Sys2Proof.Laws.TableRow

/-- The word of an instruction fits the width of its format, and matches its row's match under its row's mask. -/
def Statement (i : Instr) : Prop :=
  encode i < 2 ^ i.format.width ∧ encode i &&& (tableRow i).2 = (tableRow i).1

theorem idle : Statement .idle := by
  unfold Statement; decide

theorem attach (addr : Word7) : Statement (.attach addr) := by
  revert addr; unfold Statement; decide

theorem write (len : Word7) : Statement (.write len) := by
  revert len; unfold Statement; decide

theorem detach : Statement .detach := by
  unfold Statement; decide

theorem portEnHi (d : Nibble) (bl rs : Bool) : Statement (.portEnHi d bl rs) := by
  revert d bl rs; unfold Statement; decide

theorem portEnLo (d : Nibble) (bl rs : Bool) : Statement (.portEnLo d bl rs) := by
  revert d bl rs; unfold Statement; decide

theorem initNib3 : Statement .initNib3 := by
  unfold Statement; decide

theorem initNib2 : Statement .initNib2 := by
  unfold Statement; decide

theorem functionSet : Statement .functionSet := by
  unfold Statement; decide

theorem displayControl : Statement .displayControl := by
  unfold Statement; decide

theorem clear : Statement .clear := by
  unfold Statement; decide

theorem entryModeSet : Statement .entryModeSet := by
  unfold Statement; decide

theorem home : Statement .home := by
  unfold Statement; decide

theorem setDdramRow1 : Statement .setDdramRow1 := by
  unfold Statement; decide

theorem data (b : Byte) : Statement (.data b) := by
  revert b; unfold Statement; decide

end Sys2Proof.Laws.TableRow
end

