-- ==== Sys2Proof/Laws/Step.lean ====
section
/-! SUPPORT. What a step can do, said once: one inversion lemma for the step and for each part of it. -/

namespace Sys2Proof.Machine

/-! ### Requests -/

/-- What the issue of an ATTACH can do (R241 to R245, R258 F2, F3). -/
theorem issueAttach_cases (addr : Word7) (s : State) :
    (s.inst.life ≠ .detached ∧ issueAttach addr s = s.refuse .f2)
      ∨ (s.inst.life = .detached ∧ s.peerHolds addr = true ∧ issueAttach addr s = s.refuse .f3)
      ∨ (s.inst.life = .detached ∧ (issueAttach addr s =
            s.mapInst (fun i => { i with attachResult := some Result.capabilityError.word })
          ∨ issueAttach addr s = s.mapInst (fun i => { i with attachResult := some Result.allocationError.word })))
      ∨ (s.inst.life = .detached ∧ s.peerHolds addr = false
          ∧ issueAttach addr s = s.mapInst (Inst.startAttach addr s.port.caller s.now)) := by
  unfold issueAttach
  split
  · exact .inl ⟨‹_›, rfl⟩
  · rename_i hl
    have hl : s.inst.life = .detached := by simpa using hl
    split
    · exact .inr (.inl ⟨hl, ‹_›, rfl⟩)
    · rename_i hp
      split
      · exact .inr (.inr (.inl ⟨hl, .inl rfl⟩))
      · split
        · exact .inr (.inr (.inl ⟨hl, .inr rfl⟩))
        · exact .inr (.inr (.inr ⟨hl, by simpa using hp, rfl⟩))

/-- What the issue of a WRITE can do (R250, R212, R258 F1, F4, F5). -/
theorem issueWrite_cases (len : Word7) (s : State) :
    (∃ row, issueWrite len s = s.refuse row)
      ∨ ((s.inst.life = .ready ∨ s.inst.life = .writing) ∧ s.inst.outstanding s.port.caller = false
        ∧ (issueWrite len s =
              s.mapInst (fun i => { i with result := assocPut s.port.caller (Result.ok 0).word i.result })
          ∨ (len ≠ 0 ∧ len.toNat ≤ 64 ∧ issueWrite len s = s.mapInst (fun i => { i with
              waiters := assocPut s.port.caller ⟨len, latched len s.port.data⟩ i.waiters })))) := by
  unfold issueWrite
  split
  · exact .inl ⟨_, rfl⟩
  · rename_i h64
    split
    · exact .inl ⟨_, rfl⟩
    · rename_i hl
      split
      · exact .inl ⟨_, rfl⟩
      · rename_i ho
        have hl : s.inst.life = .ready ∨ s.inst.life = .writing := by
          cases h : s.inst.life <;> simp [h] at hl ⊢
        refine .inr ⟨hl, by simpa using ho, ?_⟩
        split
        · exact .inl rfl
        · exact .inr ⟨‹_›, by simpa [Config.maxReqLen] using h64, rfl⟩

/-- What the issue of a DETACH can do (R254, R258 F6, F7). -/
theorem issueDetach_cases (s : State) :
    (∃ row, issueDetach s = s.refuse row)
      ∨ (s.inst.life = .ready ∧ s.inst.waiters = [] ∧ issueDetach s = s.mapInst (Inst.startDetach s.port.caller)) := by
  unfold issueDetach
  split
  · exact .inl ⟨_, rfl⟩
  · rename_i hl
    split
    · exact .inl ⟨_, rfl⟩
    · rename_i hw
      exact .inr ⟨by simpa using hl, by simpa using hw, rfl⟩

/-- What a reset can do: at the start of a run nothing changes, and within one it is refused (R300, R302). -/
theorem resetEvent_cases (s : State) :
    (s.inst = Inst.reset ∧ s.resetEvent = s)
      ∨ (s.inst ≠ Inst.reset ∧ s.resetEvent = s.refuse .resetWithinRun) := by
  unfold State.resetEvent
  split
  · exact .inl ⟨‹_›, rfl⟩
  · exact .inr ⟨‹_›, rfl⟩

/-- A request descriptor decodes to one of the four requests. -/
theorem decodeReq16_ok {w : Word16} {i : Instr} (h : decodeReq16 w = .ok i) :
    i = .idle ∨ (∃ a, i = .attach a) ∨ (∃ len, i = .write len) ∨ i = .detach := by
  unfold decodeReq16 at h
  split at h
  · exact .inl (by simpa using h.symm)
  split at h
  · exact .inr (.inl ⟨_, by simpa using h.symm⟩)
  split at h
  · split at h
    · exact .inr (.inr (.inl ⟨_, by simpa using h.symm⟩))
    · simp at h
  split at h
  · exact .inr (.inr (.inr (by simpa using h.symm)))
  · simp at h

/-- What a host's event can do: with the request on the lines, nothing (IDLE), the issue of a request, or a refusal; or a
reset. -/
theorem hostTurn_cases {e : HostEvent} {s t : State} (h : hostTurn e s = .next t) :
    (∃ r, e = .request r ∧
        (t = { s with port := r } ∨ (∃ a, t = issueAttach a { s with port := r })
          ∨ (∃ len, t = issueWrite len { s with port := r }) ∨ t = issueDetach { s with port := r }
          ∨ t = State.refuse .f1 { s with port := r }))
      ∨ (e = .read ∧ t = s.refuse .f8) ∨ (e = .control ∧ t = s.refuse .f9) ∨ (e = .reset ∧ t = s.resetEvent) := by
  unfold hostTurn at h
  cases e with
  | request r =>
    refine .inl ⟨r, rfl, ?_⟩
    simp only at h
    split at h
    · rename_i i hi
      rcases decodeReq16_ok hi with rfl | ⟨a, rfl⟩ | ⟨len, rfl⟩ | rfl
      · exact .inl (by simpa [exec, execIdle] using h.symm)
      · exact .inr (.inl ⟨a, by simpa [exec, execAttach] using h.symm⟩)
      · exact .inr (.inr (.inl ⟨len, by simpa [exec, execWrite] using h.symm⟩))
      · exact .inr (.inr (.inr (.inl (by simpa [exec, execDetach] using h.symm))))
    · exact .inr (.inr (.inr (.inr (by simpa using h.symm))))
  | read => exact .inr (.inl ⟨rfl, by simpa using h.symm⟩)
  | control => exact .inr (.inr (.inl ⟨rfl, by simpa using h.symm⟩))
  | reset => exact .inr (.inr (.inr ⟨rfl, by simpa using h.symm⟩))

/-! ### The block's own turn -/

/-- What the block's own turn can do: run the first micro-operations of what is left of the program, end a wait, grant a
waiter, end the operation, or nothing. -/
theorem blockTurn_cases {whole : Bool} {s t : State} (h : blockTurn whole s = .next t) :
    (∃ c q v rs en ms rest, s.inst.ctx = some c ∧ s.inst.seq = some q
        ∧ q.prog.drop q.upc = .tx v rs en :: (ms ++ rest) ∧ t = (runMicros c (.tx v rs en :: ms) s).finish)
      ∨ (∃ c q n rest, s.inst.ctx = some c ∧ s.inst.seq = some q ∧ q.prog.drop q.upc = .wait n :: rest
        ∧ t = (waitTurn n s).settle)
      ∨ (s.inst.seq = none ∧ s.inst.life = .ready ∧ s.inst.waiters ≠ [] ∧ t = grantTurn s)
      ∨ (s.inst.atEnd = true ∧ t = s.mapInst Inst.complete)
      ∨ t = s := by
  unfold blockTurn at h
  rcases fetch_cases whole s with ⟨hq, hl, hw, he⟩ | ⟨_, _, he⟩ | ⟨_, _, he⟩ | ⟨c, q, hc, hq, he⟩
  · exact .inr (.inr (.inl ⟨hq, hl, hw, by simpa [he] using h.symm⟩))
  · exact .inr (.inr (.inr (.inr (by simpa [he] using h.symm))))
  · simp [he] at h
  · rcases fetchAt_cases whole hc hq with ⟨hl, hf⟩ | ⟨n, rest, hd, hf⟩ | ⟨i, v, rs, en, ms, rest, hd, hf, hx⟩
    · have ha : s.inst.atEnd = true := by simpa [Inst.atEnd_of_seq hq] using hl
      exact .inr (.inr (.inr (.inl ⟨ha, by simpa [he, hf, State.settle, ha] using h.symm⟩)))
    · exact .inr (.inl ⟨c, q, n, rest, hc, hq, hd, by simpa [he, hf] using h.symm⟩)
    · exact .inl ⟨c, q, v, rs, en, ms, rest, hc, hq, hd, by simpa [he, hf, hx] using h.symm⟩

/-! ### The step -/

/-- What a step that answers a next state can do. -/
theorem step_cases {s t : State} (h : step s = .next t) :
    (∃ dt, s.nextTurn = .pass dt ∧ t = s.dropTurn.pass dt)
      ∨ (∃ k, s.nextTurn = .focus k ∧ t = s.dropTurn.focus k)
      ∨ (∃ e, s.nextTurn = .host e ∧ s.inst.refused = false ∧ hostTurn e s.dropTurn = .next t)
      ∨ (∃ ok, s.nextTurn = .register ok ∧ s.inst.refused = false ∧ t = registerTurn ok s.dropTurn)
      ∨ (∃ whole, s.nextTurn = (if whole then .whole else .single) ∧ s.inst.refused = false
          ∧ blockTurn whole s.dropTurn = .next t) := by
  unfold step ifMeaningful at h
  cases hr : s.inst.refused <;> cases ht : s.nextTurn <;> simp only [hr, ht, if_true, if_false, reduceCtorEq] at h
  case false.host e => exact .inr (.inr (.inl ⟨e, rfl, rfl, by simpa using h⟩))
  case false.register ok => exact .inr (.inr (.inr (.inl ⟨ok, rfl, rfl, by simpa using h.symm⟩)))
  case false.single => exact .inr (.inr (.inr (.inr ⟨false, by simp, rfl, by simpa using h⟩)))
  case false.whole => exact .inr (.inr (.inr (.inr ⟨true, by simp, rfl, by simpa using h⟩)))
  case false.pass dt => exact .inl ⟨dt, rfl, by simpa using h.symm⟩
  case false.focus k => exact .inr (.inl ⟨k, rfl, by simpa using h.symm⟩)
  case true.pass dt => exact .inl ⟨dt, rfl, by simpa using h.symm⟩
  case true.focus k => exact .inr (.inl ⟨k, rfl, by simpa using h.symm⟩)

/-- What a change of focus can do: nothing, or an exchange with one of the other instances. -/
theorem State.focus_cases (k : Nat) (s : State) :
    (s.peers[k]? = none ∧ s.focus k = s)
      ∨ ∃ p, s.peers[k]? = some p ∧ s.focus k = { s with inst := p, peers := s.peers.set k s.inst } := by
  unfold State.focus
  split
  · exact .inl ⟨‹_›, rfl⟩
  · rename_i p hp
    exact .inr ⟨p, hp, rfl⟩

/-- A change of focus keeps what holds of every instance. -/
theorem State.All.focus {P : Inst → Prop} {s : State} (h : s.All P) (k : Nat) : (s.focus k).All P := by
  rcases s.focus_cases k with ⟨_, he⟩ | ⟨p, hp, he⟩
  · rwa [he]
  · rw [he]
    refine ⟨h.2 p (List.mem_of_getElem? hp), fun x hx => ?_⟩
    rcases List.mem_or_eq_of_mem_set hx with hx | rfl
    · exact h.2 x hx
    · exact h.1

end Sys2Proof.Machine
end

