-- ==== Sys2Proof/Tests/Slice0.lean ====
section
/-! SUPPORT. Tests of the model against words and vectors written in the spec (spec/30_encoding.md,
spec/95_test_vectors.md), and for every statement with hypotheses a concrete state and operands that meet them. Every
expected value is the spec's; the rule or table it comes from is named. -/

namespace Sys2Proof.Tests

open Sys2Proof Sys2Proof.Machine

/-! ### Small states -/

/-- The context of `ATTACH addr=0x27`. -/
def ctx27 : Ctx := ⟨0x27, true⟩

/-- The instance in the middle of an ATTACH. -/
def attaching (ms : List MicroOp) (upc : Nat) : Inst :=
  { Inst.reset with life := .attaching, lock := .held, ctx := some ctx27, opCaller := some 1, seq := some ⟨ms, upc⟩ }

/-- The instance attached and idle. -/
def ready : Inst := { Inst.reset with life := .ready, ctx := some ctx27 }

/-- The instance in the middle of `WRITE "Hi"` of caller 7. -/
def writing (ms : List MicroOp) (upc : Nat) : Inst :=
  { Inst.reset with
    life := .writing, lock := .held, ctx := some ctx27, cur := some ⟨7, 2, [0x48, 0x69]⟩, seq := some ⟨ms, upc⟩ }

/-- The instance at the start of a DETACH of caller 4. -/
def detaching : Inst :=
  { Inst.reset with
    life := .detaching, lock := .held, ctx := some ctx27, opCaller := some 4, seq := some ⟨detachProg, 0⟩ }

/-- The same instance with the wait at `upc` in progress since time 0. -/
def waiting (t : Nat) (i : Inst) : Inst := { i with dly := .running t 0 }

/-- An instance alone on its bus, with the turns to come and an adapter that takes 3 ns for each transaction. -/
def alone (i : Inst) (ts : List Turn) (txs : List TxStatus) : State :=
  { State.reset with
    inst := i
    env :=
      { turns := ⟨ts, 0⟩
        txs := ⟨txs.map fun st => ⟨st, 2⟩, 0⟩
        overs := ⟨[5, 0, 7, 0, 9, 0], 0⟩
        picks := ⟨[3], 0⟩ } }

/-- A request of caller 7 with the DATA bytes 0x48 0x69. -/
def request (w : Word16) : Request :=
  { Request.quiet with word := w, caller := 7, data := dataLines [0x48, 0x69] }

/-- The next state, where there is one. -/
def next? : Host.Outcome State Fault Refusal → Option State
  | .next s => some s
  | .fault _ => none
  | .refused _ => none

/-- A field of the instance in the next state. -/
def after {α : Type} (f : Inst → α) (o : Host.Outcome State Fault Refusal) : Option α := (next? o).map (f ·.inst)

/-- The images that the instance has issued in the next state. -/
def images (o : Host.Outcome State Fault Refusal) : Option (List Byte) := after (fun i => imagesOf i.hist) o

/-- Whether a run goes on. -/
def goesOn : Ran → Bool
  | .ok _ => true
  | .aborted _ => false

theorem ran_of_goesOn {r : Ran} (h : goesOn r = true) : ∃ t, r = .ok t := by
  cases r with
  | ok t => exact ⟨t, rfl⟩
  | aborted t => simp [goesOn] at h

theorem ran_of_not_goesOn {r : Ran} (h : goesOn r = false) : ∃ t, r = .aborted t := by
  cases r with
  | ok t => simp [goesOn] at h
  | aborted t => exact ⟨t, rfl⟩

theorem next_of_isSome {o : Host.Outcome State Fault Refusal} (h : (next? o).isSome = true) : ∃ t, o = .next t := by
  cases o with
  | next t => exact ⟨t, rfl⟩
  | fault r => simp [next?] at h
  | refused r => simp [next?] at h

/-! ### WellFormed refuses ill-formed terms (R95, R10) -/

theorem test_write_65_ill_formed : (Instr.write 65).wellFormed = false := by decide

theorem test_write_127_ill_formed : (Instr.write 127).wellFormed = false := by decide

theorem test_write_64_well_formed : (Instr.write 64).wellFormed = true := by decide

/-! ### Decoding: words from the tables of spec/30_encoding.md and spec/95_test_vectors.md 2.8 -/

theorem test_decode_idle : decode .req16 0b0000000000000000 = .ok .idle := rfl

theorem test_decode_attach : decode .req16 0b0000000_0111111_01 = .ok (.attach 0x3F) := rfl

theorem test_decode_write : decode .req16 0b1000000_0000000_10 = .ok (.write 64) := rfl

theorem test_decode_detach : decode .req16 0b0000000000000011 = .ok .detach := rfl

theorem test_decode_port_en_hi : decode .port8 0b0100_1_1_0_1 = .ok (.portEnHi 0x4 true true) := rfl

theorem test_decode_port_en_lo : decode .port8 0b1101_0_0_0_0 = .ok (.portEnLo 0xD false false) := rfl

theorem test_decode_init_nib_3 : decode .nib5 0b00011 = .ok .initNib3 := rfl

theorem test_decode_init_nib_2 : decode .nib5 0b00010 = .ok .initNib2 := rfl

theorem test_decode_function_set : decode .lcd9 0b000101000 = .ok .functionSet := rfl

theorem test_decode_display_control : decode .lcd9 0b000001100 = .ok .displayControl := rfl

theorem test_decode_clear : decode .lcd9 0b000000001 = .ok .clear := rfl

theorem test_decode_entry_mode_set : decode .lcd9 0b000000110 = .ok .entryModeSet := rfl

theorem test_decode_home : decode .lcd9 0b000000010 = .ok .home := rfl

theorem test_decode_set_ddram_row1 : decode .lcd9 0b011000000 = .ok .setDdramRow1 := rfl

theorem test_decode_data : decode .lcd9 0b100001010 = .ok (.data 0x0A) := rfl

/-- The descriptors of 2.8 that match no row, an image with RW = 1 (R82), and words that are never emitted (R90). -/
theorem test_decode_rejects :
    decode .req16 0x8202 = .error .lengthOver64 ∧ decode .req16 0x0006 = .error .noRequestRow
      ∧ decode .req16 0x029D = .error .noRequestRow ∧ decode .req16 0x0007 = .error .noRequestRow
      ∧ decode .port8 0x02 = .error .readWriteSet ∧ decode .nib5 0x13 = .error .neverEmittedNibble
      ∧ decode .lcd9 0x080 = .error .neverEmittedCommand ∧ decode .lcd9 0x200 = .error .tooWide :=
  ⟨rfl, rfl, rfl, rfl, rfl, rfl, rfl, rfl⟩

/-- Table words in whole bytes, as the host asks for them. -/
theorem test_table_words :
    decodeTableWord 16 0x009D = some (.attach 0x27) ∧ decodeTableWord 16 0x0028 = some .functionSet
      ∧ decodeTableWord 16 0x0148 = some (.data 0x48) ∧ decodeTableWord 8 0x3C = some (.portEnHi 0x3 true false)
      ∧ decodeTableWord 8 0x03 = some .initNib3 ∧ decodeTableWord 8 0x02 = some .initNib2
      ∧ decodeTableWord 16 0x8202 = none := by decide

/-! ### Images, result words, delays -/

/-- The rows of 2.1. -/
theorem test_images :
    image 0x0 false true true = 0x0C ∧ image 0x0 true true false = 0x09 ∧ image 0xF true true true = 0xFD
      ∧ image 0x3 false true true = 0x3C ∧ image 0x3 false false true = 0x34 := by decide

/-- R111. -/
theorem test_address_byte : addressByte 0x27 = 0x4E ∧ addressByte 0x3F = 0x7E := by decide

/-- R30: a caller whose request has not completed has no result, and has one when it has. -/
theorem test_result_of :
    Inst.resultOf 7 { writing detachProg 0 with result := [(7, 0x0100), (8, 0x0000)] } = none
      ∧ Inst.resultOf 8 { writing detachProg 0 with result := [(7, 0x0100), (8, 0x0000)] } = some 0x0000 := by decide

/-- The rows of 2.9. -/
theorem test_result_words :
    Result.capabilityError.word = 0x0001 ∧ Result.allocationError.word = 0x0002
      ∧ (Result.transportError .nack).word = 0x000B ∧ (Result.transportError .arbLost).word = 0x0013
      ∧ (Result.transportError .adapterError).word = 0x001B ∧ Result.registrationError.word = 0x0004
      ∧ (Result.ok 20).word = 0x1400 ∧ (Result.ok 64).word = 0x4000 := by decide

/-- The 32 768 Hz row of 2.3, the rounding corner. -/
theorem test_delay_cycles :
    delayCycles 1_000 32_768 = 1 ∧ delayCycles 50_000 32_768 = 2 ∧ delayCycles 1_000_000 32_768 = 33
      ∧ delayCycles 5_000_000 32_768 = 164 ∧ delayCycles 50_000_000 32_768 = 1_639
      ∧ delayCycles 50_000_000 16_000_000 = 800_000 := by decide

/-- R97: the spelling of a failed transaction and of waits. -/
theorem test_spelling :
    (Event.tx 0 1 0x27 0x2C (.err .nack)).spell = "TX 0x2C !NACK" ∧ (Event.wait 0 9 50_000).spell = "WAIT 50us"
      ∧ (Event.wait 0 9 5_000_000).spell = "WAIT 5ms" := by decide

/-- The spellings of R96 give the descriptors of 2.8. -/
theorem test_program_words :
    (HostLine.request ⟨1, .attach 0x3F true true true, false⟩).word = 0x00FD
      ∧ (HostLine.request ⟨1, .write [0x48, 0x69], false⟩).word = 0x0402
      ∧ (HostLine.request ⟨1, .detach, false⟩).word = 0x0003 := by decide

/-- R10: a WRITE line of more bytes than `LEN7` can say is refused (F1), and so is one of 65 bytes. -/
theorem test_long_write_lines_refused :
    decodeReq16 (HostLine.request ⟨1, .write (List.replicate 65 0), false⟩).word = .error .lengthOver64
      ∧ decodeReq16 (HostLine.request ⟨1, .write (List.replicate 128 0), false⟩).word = .error .lengthOver64
      ∧ decodeReq16 (HostLine.request ⟨1, .write (List.replicate 130 0), false⟩).word = .error .lengthOver64 :=
  ⟨rfl, rfl, rfl⟩

/-- R96: the `reg=` of an ATTACH line that fails its check goes to no other ATTACH. -/
theorem test_registration_belongs_to_its_line :
    hostTurns [⟨1, .attach 0x27 false true true, false⟩, ⟨1, .attach 0x27 true true false, false⟩] [] =
      [.host (.request (HostLine.request ⟨1, .attach 0x27 false true true, false⟩)),
        .host (.request (HostLine.request ⟨1, .attach 0x27 true true false, false⟩))]
      ++ List.replicate 57 .single ++ [.register false] := by decide

/-! ### One step of each instruction -/

/-- R259. -/
theorem test_idle_step : after id (step ((alone ready [] []).withFetchWord 16 0x0000)) = some ready := by decide

/-- R244: `ATTACH addr=0x27` from reset. -/
theorem test_attach_step :
    after Inst.ctx (step (State.reset.withFetchWord 16 0x009D)) = some (some ⟨0x27, true⟩)
      ∧ after Inst.life (step (State.reset.withFetchWord 16 0x009D)) = some .attaching
      ∧ after Inst.lock (step (State.reset.withFetchWord 16 0x009D)) = some .held := by decide

/-- 2.8 `cap=0 alloc=0`: the capability is checked first. -/
theorem test_attach_capability_first :
    after Inst.attachResult (exec (.attach 0x27)
        { State.reset with port := { request 0x009D with capOk := false, allocOk := false } }) =
      some (some 0x0001) := by decide

/-- R26: `WRITE "Hi"` latches two bytes of its DATA lines. -/
theorem test_write_step :
    after Inst.waiters (step (alone ready [.host (.request (request 0x0402))] [])) =
      some [(7, ⟨2, [0x48, 0x69]⟩)] := by decide

/-- 2.8 F1: `WRITE` with LEN7 = 65 is refused by name, with no result. -/
theorem test_write_65_refused :
    after Inst.refusedBy (step (alone ready [.host (.request (request 0x8202))] [])) = some (some .f1)
      ∧ after Inst.result (step (alone ready [.host (.request (request 0x8202))] [])) = some [] := by decide

/-- R254. -/
theorem test_detach_step :
    after Inst.life (step ((alone ready [] []).withFetchWord 16 0x0003)) = some .detaching
      ∧ after Inst.seq (step ((alone ready [] []).withFetchWord 16 0x0003)) = some (some ⟨detachProg, 0⟩) := by decide

/-- 2.2: an image with success. -/
theorem test_port_en_hi_step :
    after Inst.portLatch (step ((alone ready [] [.ok]).withFetchWord 8 0x3C)) = some (.image 0x3C)
      ∧ after Inst.hist (step ((alone ready [] [.ok]).withFetchWord 8 0x3C)) =
        some [.tx 0 3 0x27 0x3C .ok] := by decide

/-- 2.2: an image that the expander does not acknowledge. -/
theorem test_port_en_lo_nack :
    after Inst.portLatch (exec (.portEnLo 0x2 true false) (alone (attaching initProg 1) [] [.err .nack])) =
        some .unknown
      ∧ after Inst.attachResult (exec (.portEnLo 0x2 true false) (alone (attaching initProg 1) [] [.err .nack])) =
        some (some 0x000B) := by decide

/-- R166. -/
theorem test_init_nib_3_step :
    images (step ((alone ready [] [.ok, .ok]).withFetchWord 8 0x03)) = some [0x3C, 0x38] := by decide

/-- R167. -/
theorem test_init_nib_2_step :
    images (step ((alone ready [] [.ok, .ok]).withFetchWord 8 0x02)) = some [0x2C, 0x28] := by decide

/-- An adapter that succeeds four times. -/
def fourOk : List TxStatus := [.ok, .ok, .ok, .ok]

/-- R163. -/
theorem test_function_set_step :
    images (step ((alone ready [] fourOk).withFetchWord 16 0x0028)) = some [0x2C, 0x28, 0x8C, 0x88] := by decide

/-- 2.5: `CMD 0x28` whose third transaction fails. -/
theorem test_function_set_abort :
    images (exec .functionSet (alone (attaching initProg 1) [] [.ok, .ok, .err .nack])) =
      some [0x2C, 0x28, 0x8C] := by decide

/-- R162. -/
theorem test_display_control_step :
    images (step ((alone ready [] fourOk).withFetchWord 16 0x000C)) = some [0x0C, 0x08, 0xCC, 0xC8] := by decide

/-- R159; LCD9 alone, since 0x0001 in 16 bits is also a descriptor (assumption log 2). -/
theorem test_clear_step :
    images (step ((alone ready [] fourOk).withFetchWord 9 0x001)) = some [0x0C, 0x08, 0x1C, 0x18] := by decide

/-- R161. -/
theorem test_entry_mode_set_step :
    images (step ((alone ready [] fourOk).withFetchWord 16 0x0006)) = some [0x0C, 0x08, 0x6C, 0x68] := by decide

/-- R160. -/
theorem test_home_step :
    images (step ((alone ready [] fourOk).withFetchWord 9 0x002)) = some [0x0C, 0x08, 0x2C, 0x28] := by decide

/-- R164. -/
theorem test_set_ddram_row1_step :
    images (step ((alone ready [] fourOk).withFetchWord 16 0x00C0)) = some [0xCC, 0xC8, 0x0C, 0x08] := by decide

/-- 2.5: `DATA 0x48`. -/
theorem test_data_step :
    images (step ((alone ready [] fourOk).withFetchWord 16 0x0148)) = some [0x4D, 0x49, 0x8D, 0x89] := by decide

/-- 2.10: `DATA 0x5A` at (1, 3). -/
theorem test_data_shows :
    after Inst.lcd (exec (.data 0x5A) (alone
        { writing (byteProg 0x5A true ++ [.wait 1]) 0 with lcd := .known { LcdRec.init with row := 1, col := 3 } } []
        fourOk)) =
      some (.known { LcdRec.init with
        cells := LcdRec.init.cells.set 1 (LcdRec.init.cells[1].set 3 (.code 0x5A)), row := 1, col := 4 }) := by decide

/-! ### Moments, positions and resets -/

/-- R131: the wait behind a transaction starts at the transaction's end, before any other turn. -/
theorem test_wait_starts_at_completion :
    after Inst.dly (step (alone (attaching initProg 1) [.single] [.ok])) = some (.running 1_000 3) := by decide

/-- R245, R181: the 50 ms wait starts with the ATTACH, whatever time passes before its end. -/
theorem test_init_wait_counts_from_attach :
    after Inst.dly (step ((State.reset.pass 40).withFetchWord 16 0x009D)) = some (.running 50_000_000 40) := by decide

/-- R92: at the low nibble of a byte a whole turn is the one transaction there: Home's low nibble is no INIT_NIB_2, and a
data byte's low nibble and the next high nibble are no byte. -/
theorem test_whole_turn_inside_a_byte :
    images (step (alone (writing (wbProg 2 [0x48, 0x69]) 13) [.whole] fourOk)) = some [0x2C]
      ∧ images (step (alone (writing (wbProg 2 [0x48, 0x69]) 22) [.whole] fourOk)) = some [0x8D]
      ∧ images (step (alone (writing (wbProg 2 [0x48, 0x69]) 18) [.whole] fourOk)) =
        some [0x4D, 0x49, 0x8D, 0x89] := by decide

/-- R302: a reset within a run is refused, be the instance idle or not; at the start of a run it changes nothing. -/
theorem test_reset_within_a_run :
    after Inst.refusedBy (step (alone ready [.host .reset] [])) = some (some .resetWithinRun)
      ∧ after Inst.refusedBy (step (alone (attaching initProg 1) [.host .reset] [])) = some (some .resetWithinRun)
      ∧ after id (step (alone Inst.reset [.host .reset] [])) = some Inst.reset := by decide

/-! ### Witnesses: for each statement with hypotheses, a state and operands that meet them -/

theorem witness_EncodeThenDecode : (Instr.write 64).wellFormed = true ∧ (Instr.data 0xFF).wellFormed = true := by decide

theorem witness_DecodeThenEncode :
    decode .req16 0x8002 = .ok (.write 64) ∧ decode .port8 0xFD = .ok (.portEnHi 0xF true true)
      ∧ decode .nib5 0x02 = .ok .initNib2 ∧ decode .lcd9 0x1FF = .ok (.data 0xFF) := ⟨rfl, rfl, rfl, rfl⟩

theorem witness_RequestRows :
    let s := alone ready [.host (.request (request 0x8202))] []
    s.inst.refused = false ∧ s.nextTurn = .host (.request (request 0x8202))
      ∧ decodeReq16 0x8202 = .error .lengthOver64 := ⟨rfl, rfl, rfl⟩

theorem witness_ResultWords : (64 : Word7).toNat ≤ 64 := by decide

theorem witness_StepRunsTheRequest :
    let s := alone ready [.host (.request (request 0x0402))] []
    s.inst.refused = false ∧ s.nextTurn = .host (.request (request 0x0402))
      ∧ decodeReq16 0x0402 = .ok (.write 2) := ⟨rfl, rfl, rfl⟩

theorem witness_StepRunsTheTransaction :
    let s := alone (attaching initProg 1) [.single] [.ok]
    s.inst.refused = false ∧ s.nextTurn = .single ∧ s.inst.ctx = some ctx27 ∧ s.inst.seq = some ⟨initProg, 1⟩
      ∧ initProg.drop 1 = .tx 0x3 false true :: initProg.drop 2 := by decide

/-- A byte with a byte behind it, taken at its beginning, and inside it the low nibble. -/
theorem witness_StepRunsTheWholeInstruction_lcd9 :
    let before := [Part.instr .clear, .wait 2_000_000, .instr .home, .wait 2_000_000]
    let behind := [Part.instr (.data 0x69)]
    let s (upc : Nat) := alone (writing (flat (before ++ .instr (.data 0x48) :: behind)) upc) [.whole] fourOk
    partsOk (before ++ .instr (.data 0x48) :: behind) = true ∧ (flat before).length = 18
      ∧ (s 18).inst.ctx = some ctx27
      ∧ (s 18).inst.seq = some ⟨flat (before ++ .instr (.data 0x48) :: behind), (flat before).length + 0⟩
      ∧ (s 18).inst.refused = false ∧ (s 18).nextTurn = .whole
      ∧ (s 22).inst.seq = some ⟨flat (before ++ .instr (.data 0x48) :: behind), (flat before).length + 4⟩
      ∧ 0 < 4 ∧ 4 < (expand (.data 0x48)).length := by decide

/-- A raw nibble, before a wait. -/
theorem witness_StepRunsTheWholeInstruction_nib5 :
    let s := alone (attaching (flat ([Part.wait 50_000_000] ++ .instr .initNib3 :: [.wait 5_000_000])) 1) [.whole] fourOk
    partsOk ([Part.wait 50_000_000] ++ .instr .initNib3 :: [.wait 5_000_000]) = true
      ∧ s.inst.ctx = some ctx27
      ∧ s.inst.seq = some ⟨flat ([Part.wait 50_000_000] ++ .instr .initNib3 :: [.wait 5_000_000]),
          (flat [Part.wait 50_000_000]).length + 0⟩
      ∧ s.inst.refused = false ∧ s.nextTurn = .whole := by decide

theorem witness_PlacedInstructionRuns :
    State.reset.inst.refused = false ∧ decodeTableWord 16 0x009D = some (.attach 0x27)
      ∧ decodeTableWord 8 0x03 = some .initNib3 ∧ decodeTableWord 9 0x100 = some (.data 0x00) := by decide

/-- The instance after a refused event. -/
def marked : Inst := { ready with refused := true, refusedBy := some .f8 }

theorem witness_RefusedRunStops :
    marked.refused = true ∧ (alone marked [.host .read] []).nextTurn = .host .read
      ∧ (alone marked [.register true] []).nextTurn = .register true
      ∧ (alone marked [.single] []).nextTurn = .single ∧ (alone marked [.whole] []).nextTurn = .whole
      ∧ (alone marked [.pass 0] []).nextTurn = .pass 0 ∧ (alone marked [.focus 0] []).nextTurn = .focus 0 := by decide

theorem witness_TransactionSucceeds :
    let s := alone (attaching initProg 1) [] [.ok]
    s.inst.ctx = some ctx27 ∧ s.inst.seq = some ⟨initProg, 1⟩ ∧ s.nextTx.status = .ok := by decide

theorem witness_FailedTransactionEndsAttach :
    let s := alone (attaching initProg 1) [] [.err .nack]
    s.inst.life = .attaching ∧ s.inst.ctx = some ctx27 ∧ s.inst.seq = some ⟨initProg, 1⟩
      ∧ s.nextTx.status = .err .nack := by decide

theorem witness_FailedTransactionEndsWrite :
    let s := alone (writing (wbProg 2 [0x48, 0x69]) 0) [] [.err .arbLost]
    s.inst.life = .writing ∧ s.inst.ctx = some ctx27 ∧ s.inst.seq = some ⟨wbProg 2 [0x48, 0x69], 0⟩
      ∧ s.inst.cur = some ⟨7, 2, [0x48, 0x69]⟩ ∧ s.nextTx.status = .err .arbLost := by decide

theorem witness_FailedTransactionEndsDetach :
    let s := alone detaching [] [.err .adapterError]
    s.inst.life = .detaching ∧ s.inst.ctx = some ctx27 ∧ s.inst.seq = some ⟨detachProg, 0⟩
      ∧ s.inst.opCaller = some 4 ∧ s.nextTx.status = .err .adapterError := by decide

theorem witness_WaitBegins :
    let s := alone (attaching initProg 1) [.single] [.ok]
    s.inst.refused = false ∧ s.inst.ctx = some ctx27 ∧ s.inst.seq = some ⟨initProg, 1⟩ ∧ s.nextTurn = .single
      ∧ s.inst.dly = .idle ∧ s.nextTx.status = .ok
      ∧ initProg.drop 1 = .tx 0x3 false true :: .wait 1_000 :: initProg.drop 3 := by decide

theorem witness_WaitBeginsBehindAWait :
    let s := alone (waiting 50_000 (attaching initProg 4)) [.single] []
    s.inst.refused = false ∧ s.inst.ctx = some ctx27 ∧ s.inst.seq = some ⟨initProg, 4⟩ ∧ s.nextTurn = .single
      ∧ s.inst.dly = .running 50_000 0 ∧ initProg.drop 4 = .wait 50_000 :: .wait 5_000_000 :: initProg.drop 6 := by decide

theorem witness_WaitEnds :
    let s := alone (waiting 50_000_000 (attaching initProg 0)) [.whole] []
    s.inst.refused = false ∧ s.inst.ctx = some ctx27 ∧ s.inst.seq = some ⟨initProg, 0⟩ ∧ s.nextTurn = .whole
      ∧ s.inst.dly = .running 50_000_000 0 ∧ initProg.drop 0 = .wait 50_000_000 :: initProg.drop 1 := by decide

theorem witness_DelayCounterWaitsLongEnough : 0 < 1_000 ∧ 0 < 32_768 := by decide

theorem witness_RawNibblesComplete :
    let s := alone (attaching initProg 1) [] [.ok, .ok]
    (Instr.initNib3, (0x3 : Nibble)) ∈ [(Instr.initNib3, (0x3 : Nibble)), (Instr.initNib2, (0x2 : Nibble))]
      ∧ s.inst.ctx = some ctx27 ∧ s.inst.seq = some ⟨initProg, 1⟩ ∧ s.AdapterOk 2 := by
  refine ⟨by decide, rfl, rfl, ?_⟩
  unfold State.AdapterOk
  decide

theorem witness_BytesComplete :
    let s := alone (attaching initProg 21) [] fourOk
    byteOf .functionSet = some (0x28, false) ∧ byteOf (.data 0xFF) = some (0xFF, true)
      ∧ byteImages 0x28 false ctx27.backlight = [0x2C, 0x28, 0x8C, 0x88]
      ∧ byteImages 0xFF true ctx27.backlight = [0xFD, 0xF9, 0xFD, 0xF9]
      ∧ s.inst.ctx = some ctx27 ∧ s.inst.seq = some ⟨initProg, 21⟩ ∧ s.AdapterOk 4 := by
  refine ⟨rfl, rfl, by decide, by decide, rfl, rfl, ?_⟩
  unfold State.AdapterOk
  decide

/-- The first transaction fails, and the last. -/
theorem witness_BytesAbort :
    let s (txs : List TxStatus) := alone (attaching initProg 21) [] txs
    byteOf .functionSet = some (0x28, false) ∧ (s []).inst.ctx = some ctx27
      ∧ (s []).inst.seq = some ⟨initProg, 21⟩
      ∧ ((s [.err .nack]).AdapterOk 0 ∧ ((s [.err .nack]).txAt 0).status = .err .nack)
      ∧ ((s [.ok, .ok, .ok, .err .arbLost]).AdapterOk 3
        ∧ ((s [.ok, .ok, .ok, .err .arbLost]).txAt 3).status = .err .arbLost) := by
  refine ⟨rfl, rfl, rfl, ⟨?_, rfl⟩, ⟨?_, rfl⟩⟩ <;> unfold State.AdapterOk <;> decide

theorem witness_NoMicroOperationOutsideAnOperation :
    Instr.clear.format ≠ .req16 ∧ State.reset.inst.ctx = none ∧ (alone ready [] []).inst.seq = none := by decide

theorem witness_ProgramsRunInOrder :
    let s := alone (attaching initProg 1) [] [.ok, .ok]
    s.inst.seq = some ⟨initProg, 1⟩ ∧ ∃ t, runMicros ctx27 (nibProg 0x3 false) s = .ok t :=
  ⟨rfl, ran_of_goesOn (by decide)⟩

theorem witness_AbortIsPrecise :
    ∃ t, runMicros ctx27 (nibProg 0x3 false) (alone (attaching initProg 1) [] [.ok, .err .nack]) = .aborted t :=
  ran_of_not_goesOn (by decide)

/-- 32 bytes. -/
def full : List Byte := (List.range 32).map (BitVec.ofNat 8)

theorem witness_LegalWrite : LegalWrite 1 [0x41] ∧ LegalWrite 32 full ∧ LegalWrite 64 full := by
  refine ⟨?_, ?_, ?_⟩ <;> unfold LegalWrite <;> decide

theorem witness_OnlyTheMinimumsOccur :
    MicroOp.wait 5_000_000 ∈ initProg ++ wbProg 1 [0x41] ++ detachProg := by decide

/-- An adapter that succeeds 24 times. -/
def initOk : List TxStatus := List.replicate 24 .ok

theorem witness_InitMakesTheLcdKnown :
    (attaching initProg 0).trail = []
      ∧ ∃ t, runMicros ctx27 initProg (alone (attaching initProg 0) [] initOk) = .ok t :=
  ⟨rfl, ran_of_goesOn (by decide)⟩

/-- An instance whose LCD is known, with the cursor in a column. -/
def shown (col : Fin 17) : Inst := { writing detachProg 0 with lcd := .known { LcdRec.init with col := col } }

theorem witness_CommandsMoveTheLcd :
    (shown 5).trail = [] ∧ (shown 5).lcd = .known { LcdRec.init with col := 5 }
      ∧ (∃ t, runMicros ctx27 (byteProg 0x01 false ++ [.wait 2_000_000]) (alone (shown 5) [] fourOk) = .ok t)
      ∧ (∃ t, runMicros ctx27 (byteProg 0x02 false ++ [.wait 2_000_000]) (alone (shown 5) [] fourOk) = .ok t)
      ∧ ∃ t, runMicros ctx27 (byteProg 0xC0 false ++ [.wait 1_000_000]) (alone (shown 5) [] fourOk) = .ok t :=
  ⟨rfl, rfl, ran_of_goesOn (by decide), ran_of_goesOn (by decide), ran_of_goesOn (by decide)⟩

/-- The last column of the row, and the column after it. -/
theorem witness_DataWritesTheCell :
    (shown 15).trail = [] ∧ (shown 15).lcd = .known { LcdRec.init with col := 15 }
      ∧ (shown 16).lcd = .known { LcdRec.init with col := 16 }
      ∧ (∃ t, runMicros ctx27 (byteProg 0x41 true) (alone (shown 15) [] fourOk) = .ok t)
      ∧ ∃ t, runMicros ctx27 (byteProg 0x41 true) (alone (shown 16) [] fourOk) = .ok t :=
  ⟨rfl, rfl, rfl, ran_of_goesOn (by decide), ran_of_goesOn (by decide)⟩

theorem witness_OtherSequencesLoseTheLcd :
    (0x3 : Nibble) ≠ 0x0 ∧ (0x3 : Nibble) ≠ 0xC ∧ (shown 0).trail = []
      ∧ (∃ t, runMicros ctx27 (nibProg 0x3 false) (alone (shown 0) [] fourOk) = .ok t)
      ∧ detaching.trail = [] ∧ detaching.life = .detaching ∧ detaching.seq = some ⟨detachProg, 0⟩
      ∧ ∃ t, runMicros ctx27 detachProg (alone detaching [] fourOk) = .ok t :=
  ⟨by decide, by decide, rfl, ran_of_goesOn (by decide), rfl, rfl, rfl, ran_of_goesOn (by decide)⟩

theorem witness_WriteShowsItsBytes :
    (shown 5).trail = [] ∧ (shown 5).lcd = .known { LcdRec.init with col := 5 } ∧ LegalWrite 1 [0x41]
      ∧ ∃ t, runMicros ctx27 (wbProg 1 [0x41]) (alone (shown 5) [] (fourOk ++ fourOk ++ fourOk)) = .ok t :=
  ⟨rfl, rfl, witness_LegalWrite.1, ran_of_goesOn (by decide)⟩

/-- An adapter that succeeds as often as a full WRITE needs. -/
def writeOk : List TxStatus := List.replicate 140 .ok

/-- One row full, with no row change. -/
theorem witness_WriteShowsItsBytes_16 :
    LegalWrite 16 (full.take 16)
      ∧ ∃ t, runMicros ctx27 (wbProg 16 (full.take 16)) (alone (shown 5) [] writeOk) = .ok t := by
  refine ⟨?_, ran_of_goesOn (by decide +kernel)⟩
  unfold LegalWrite
  decide

/-- The row change, before the last byte. -/
theorem witness_WriteShowsItsBytes_17 :
    LegalWrite 17 (full.take 17)
      ∧ ∃ t, runMicros ctx27 (wbProg 17 (full.take 17)) (alone (shown 5) [] writeOk) = .ok t := by
  refine ⟨?_, ran_of_goesOn (by decide +kernel)⟩
  unfold LegalWrite
  decide

/-- Both rows full. -/
theorem witness_WriteShowsItsBytes_32 :
    LegalWrite 32 full ∧ ∃ t, runMicros ctx27 (wbProg 32 full) (alone (shown 5) [] writeOk) = .ok t :=
  ⟨witness_LegalWrite.2.1, ran_of_goesOn (by decide +kernel)⟩

theorem witness_IdleDoesNothing :
    let s := alone ready [.host (.request (request 0x0000))] []
    s.inst.refused = false ∧ s.nextTurn = .host (.request (request 0x0000)) ∧ (request 0x0000).word = 0x0000 := by decide

theorem witness_AttachChecks :
    State.reset.inst.life = .detached ∧ State.reset.peerHolds 0x27 = false
      ∧ { request 0x009D with capOk := false }.capOk = false
      ∧ { request 0x009D with allocOk := false }.capOk = true
      ∧ { request 0x009D with allocOk := false }.allocOk = false := by decide

theorem witness_AttachStarts :
    State.reset.inst.life = .detached ∧ State.reset.peerHolds 0x7F = false ∧ State.reset.port.capOk = true
      ∧ State.reset.port.allocOk = true := by decide

/-- Without `REG_OK` yet, with it, and with its refusal. -/
theorem witness_RegistrationEndsAttach :
    let s (turn : Turn) := alone (attaching initProg 57) [turn] []
    (s .single).inst.refused = false ∧ (s .single).inst.life = .attaching ∧ (s .single).inst.ctx = some ctx27
      ∧ (s .single).inst.seq = some ⟨initProg, 57⟩ ∧ (s .single).inst.trail = [] ∧ (s .single).nextTurn = .single
      ∧ (s (.register true)).nextTurn = .register true ∧ (s (.register false)).nextTurn = .register false := by decide

theorem witness_EmptyWriteCompletesAtOnce :
    ready.life = .ready ∧ ready.outstanding 7 = false ∧ (writing detachProg 0).life = .writing
      ∧ (writing detachProg 0).outstanding 8 = false := by decide

theorem witness_WriteBlocksItsCaller :
    ready.life = .ready ∧ ready.outstanding 7 = false ∧ (64 : Word7) ≠ 0 ∧ (64 : Word7).toNat ≤ 64 ∧ (8 : Nat) ≠ 7 := by
  decide

/-- Two callers wait; the pick 3 takes the second. -/
def queued : Inst := { ready with waiters := [(1, ⟨2, [0x41, 0x42]⟩), (2, ⟨2, [0x43, 0x44]⟩)] }

theorem witness_GrantServesAWaiter :
    let s := alone queued [.single] []
    s.inst.refused = false ∧ s.nextTurn = .single ∧ s.inst.life = .ready ∧ s.inst.seq = none
      ∧ s.inst.waiters[1]? = some (2, ⟨2, [0x43, 0x44]⟩) ∧ s.nextPick % s.inst.waiters.length = 1 := by decide

theorem witness_WriteCompletes :
    let i := { writing (wbProg 2 [0x48, 0x69]) 33 with dly := .running 50_000 0 }
    let s := alone i [.single] []
    s.inst.refused = false ∧ s.nextTurn = .single ∧ s.inst.life = .writing ∧ s.inst.ctx = some ctx27
      ∧ s.inst.cur = some ⟨7, 2, [0x48, 0x69]⟩ ∧ s.inst.seq = some ⟨wbProg 2 [0x48, 0x69], 33⟩
      ∧ (wbProg 2 [0x48, 0x69]).drop 33 = [.wait 50_000] ∧ s.inst.dly = .running 50_000 0
      ∧ assocGet 7 s.inst.waiters = none ∧ s.inst.opCaller ≠ some 7 := by decide

theorem witness_DetachStarts : ready.life = .ready ∧ ready.waiters = [] := by decide

/-- One state for each row of the table. -/
theorem witness_RefusalTable :
    ready.life ≠ .detached
      ∧ (State.reset.inst.life = .detached ∧ { State.reset with peers := [ready] }.peerHolds 0x27 = true)
      ∧ ((64 : Word7).toNat ≤ 64 ∧ Inst.reset.life ≠ .ready ∧ Inst.reset.life ≠ .writing)
      ∧ (queued.life = .ready ∧ queued.outstanding 1 = true)
      ∧ 64 < (65 : Word7).toNat
      ∧ (writing detachProg 0).life ≠ .ready
      ∧ (queued.life = .ready ∧ queued.waiters ≠ [])
      ∧ (ready ≠ Inst.reset ∧ State.reset.inst = Inst.reset) := by decide

theorem witness_ContextIsFixedWithinAnAttachment :
    let s := alone (attaching initProg 0) [.single] []
    s.inst.life ≠ .detached ∧ s.inst.ctx = some ctx27 ∧ (∀ k, s.nextTurn ≠ .focus k) ∧ ∃ t, step s = .next t :=
  ⟨by decide, rfl, by simp [alone, State.nextTurn, Draws.head], next_of_isSome (by decide)⟩

/-- Time passes, the focus changes, an instruction, an event, a turn of the block, and REG_OK. -/
theorem witness_RefusedIsSticky :
    let s (turn : Turn) := { alone marked [turn] [] with peers := [Inst.reset] }
    marked.refused = true
      ∧ ((∀ k, (s (.pass 1)).nextTurn ≠ .focus k) ∧ ∃ t, step (s (.pass 1)) = .next t)
      ∧ ((s (.focus 0)).nextTurn = .focus 0 ∧ (s (.focus 0)).peers[0]? = some Inst.reset
        ∧ ∃ t, step (s (.focus 0)) = .next t)
      ∧ (∃ t, exec (.attach 0x27) (s .single) = .next t)
      ∧ (∃ t, hostTurn .read (s .single) = .next t)
      ∧ ∃ t, blockTurn true (s .single) = .next t :=
  ⟨rfl, ⟨by simp [alone, State.nextTurn, Draws.head], next_of_isSome (by decide)⟩,
    ⟨rfl, rfl, next_of_isSome (by decide)⟩, next_of_isSome (by decide), next_of_isSome (by decide),
    next_of_isSome (by decide)⟩

theorem witness_HistoryOnlyGrows :
    let s := alone (attaching initProg 1) [.single] [.ok]
    (∀ k, s.nextTurn ≠ .focus k) ∧ ∃ t, step s = .next t :=
  ⟨by simp [alone, State.nextTurn, Draws.head], next_of_isSome (by decide)⟩

theorem witness_RequestsDoNotDisturbAnOperation :
    let s := alone (writing detachProg 0) [.host (.request { request 0x0402 with caller := 8 })] []
    s.nextTurn = .host (.request { request 0x0402 with caller := 8 }) ∧ s.inst.life.operation ≠ none
      ∧ ∃ t, step s = .next t :=
  ⟨rfl, by decide, next_of_isSome (by decide)⟩

theorem witness_InstancesAreIndependent :
    let s := { alone (attaching initProg 1) [.single] [.ok] with peers := [Inst.reset] }
    (∀ k, s.nextTurn ≠ .focus k)
      ∧ [marked].map (fun p => p.ctx.map Ctx.addr) = [ready].map (fun p => p.ctx.map Ctx.addr)
      ∧ ∃ t, step s = .next t :=
  ⟨by simp [alone, State.nextTurn, Draws.head], by decide, next_of_isSome (by decide)⟩

/-- A k-th instance, and none. -/
theorem witness_FocusChangesNoInstance :
    let s (k : Nat) := { alone ready [.focus k] [] with peers := [Inst.reset] }
    ((s 0).nextTurn = .focus 0 ∧ (s 0).peers[0]? = some Inst.reset ∧ ∃ t, step (s 0) = .next t)
      ∧ (s 1).nextTurn = .focus 1 ∧ (s 1).peers[1]? = none ∧ ∃ t, step (s 1) = .next t :=
  ⟨⟨rfl, rfl, next_of_isSome (by decide)⟩, rfl, rfl, next_of_isSome (by decide)⟩

/-- An instance whose ATTACH has just begun, beside one that is attached at another address. -/
def begun : State :=
  { alone (Inst.reset.startAttach 0x27 1 0) [.single] [] with peers := [{ ready with ctx := some ⟨0x3F, true⟩ }] }

theorem begun_sound : begun.All Inst.Sound := by
  refine ⟨?_, fun p hp => ?_⟩
  · constructor <;>
      simp [begun, alone, Inst.startAttach, Inst.reset, lockOf, Inst.ProgramOk, Inst.DelayOk, Inst.waitHere, initProg]
  · obtain rfl : p = { ready with ctx := some ⟨0x3F, true⟩ } := by simpa [begun] using hp
    constructor <;> simp [ready, Inst.reset, lockOf, Inst.ProgramOk, Inst.DelayOk, Inst.waitHere]

theorem witness_StepKeepsInstancesSound : begun.All Inst.Sound ∧ ∃ t, step begun = .next t :=
  ⟨begun_sound, next_of_isSome (by decide)⟩

theorem witness_StepKeepsHistories :
    begun.All Inst.Sound ∧ begun.All (Inst.HistoryOk begun.now) ∧ ∃ t, step begun = .next t := by
  refine ⟨begun_sound, ⟨?_, fun p hp => ?_⟩, next_of_isSome (by decide)⟩
  · constructor <;> simp +contextual [begun, alone, Inst.startAttach, Inst.reset, tPower, eq_comm]
  · obtain rfl : p = { ready with ctx := some ⟨0x3F, true⟩ } := by simpa [begun] using hp
    constructor <;> simp [ready, Inst.reset]

theorem begun_trace :
    (Inst.reset.fsm.startInit).trace (some .init) [] 58 = initProg := by decide

theorem witness_StepKeepsTheFsm : begun.All Inst.Sound ∧ begun.All Inst.FsmOk ∧ ∃ t, step begun = .next t := by
  refine ⟨begun_sound, ⟨fun q hq => ?_, fun p hp => ?_⟩, next_of_isSome (by decide)⟩
  · obtain rfl : (⟨initProg, 0⟩ : Machine.Seq) = q := by simpa [begun, alone, Inst.startAttach] using hq
    exact begun_trace
  · obtain rfl : p = { ready with ctx := some ⟨0x3F, true⟩ } := by simpa [begun] using hp
    intro q hq
    simp [ready, Inst.reset] at hq

theorem witness_StepKeepsAddressesApart :
    begun.All Inst.Sound ∧ begun.AddressesApart ∧ ∃ t, step begun = .next t := by
  refine ⟨begun_sound, ?_, next_of_isSome (by decide)⟩
  simp [State.AddressesApart, begun, alone, Inst.startAttach, Inst.Apart, ready]

theorem witness_WholeTurnIsItsSingleTurns :
    let s := alone (attaching initProg 21) [] fourOk
    s.inst.refused = false ∧ s.inst.ctx = some ctx27 ∧ s.inst.seq = some ⟨initProg, 21⟩ ∧ s.inst.dly = .idle
      ∧ Instr.functionSet.format = .lcd9 ∧ initProg.drop 21 = expand .functionSet ++ initProg.drop 29
      ∧ ∃ t, runMicros ctx27 (expand .functionSet) (s.withTurns []) = .ok t :=
  ⟨rfl, rfl, rfl, rfl, rfl, by decide, ran_of_goesOn (by decide)⟩

theorem witness_AttachRunsToReady :
    let s := alone Inst.reset [] initOk
    s.inst.refused = false ∧ s.inst.life = .detached ∧ s.peerHolds 0x27 = false ∧ s.AdapterOk 24 := by
  refine ⟨rfl, rfl, rfl, ?_⟩
  unfold State.AdapterOk
  decide

/-- Two callers wait; the pick 3 takes the second. -/
theorem witness_WriteRunsToCompletion :
    let s := alone queued [] (fourOk ++ fourOk ++ fourOk ++ fourOk)
    s.inst.refused = false ∧ s.inst.life = .ready ∧ s.inst.ctx = some ctx27 ∧ s.inst.seq = none
      ∧ s.inst.dly = .idle ∧ s.inst.waiters[1]? = some (2, ⟨2, [0x43, 0x44]⟩)
      ∧ s.nextPick % s.inst.waiters.length = 1 ∧ LegalWrite 2 [0x43, 0x44]
      ∧ s.AdapterOk (txCount (wbProg 2 [0x43, 0x44])) := by
  refine ⟨rfl, rfl, rfl, rfl, rfl, rfl, rfl, ?_, ?_⟩
  · unfold LegalWrite
    decide
  · unfold State.AdapterOk
    decide

theorem witness_DetachAlwaysEndsDetached :
    let s := alone detaching [] []
    s.inst.refused = false ∧ s.inst.life = .detaching ∧ s.inst.ctx = some ctx27 ∧ s.inst.opCaller = some 4
      ∧ s.inst.seq = some ⟨detachProg, 0⟩ ∧ s.inst.dly = .idle := by decide

end Sys2Proof.Tests
end

section
/-! PROOFS. What a run of micro-operations that goes on does: the entries it records, when they begin and end, and what
it leaves unchanged. -/

namespace Sys2Proof.Machine

/-! ### The frame of a run -/

theorem State.SameButSequencer.refl (s : State) : s.SameButSequencer s := by
  constructor <;> rfl

theorem State.SameButSequencer.trans {s u t : State} (h : s.SameButSequencer u) (h' : u.SameButSequencer t) :
    s.SameButSequencer t where
  life := h'.life.trans h.life
  ctx := h'.ctx.trans h.ctx
  lock := h'.lock.trans h.lock
  waiters := h'.waiters.trans h.waiters
  cur := h'.cur.trans h.cur
  result := h'.result.trans h.result
  attachResult := h'.attachResult.trans h.attachResult
  refused := h'.refused.trans h.refused
  opCaller := h'.opCaller.trans h.opCaller
  refusedBy := h'.refusedBy.trans h.refusedBy
  peers := h'.peers.trans h.peers
  port := h'.port.trans h.port
  turns := h'.turns.trans h.turns
  picks := h'.picks.trans h.picks

theorem transmit_advance_sameButSequencer (addr : Word7) (img : Byte) (m : MicroOp) (s : State) :
    s.SameButSequencer ((transmit addr img s).mapInst (Inst.advance m)) := by
  constructor <;> rfl

theorem waitWhole_sameButSequencer (t : Nat) (s : State) : s.SameButSequencer (waitWhole t s) := by
  rw [waitWhole_eq]
  constructor <;> rfl

/-! ### Recorded entries -/

theorem Event.Records.not_failed {c : Ctx} {m : MicroOp} {e : Event} (h : Event.Records c m e) :
    e.failed = false := by
  cases m <;> cases e
  case tx.tx =>
    obtain ⟨rfl, rfl, rfl⟩ := h
    rfl
  case wait.wait => rfl
  all_goals exact h.elim

theorem Event.Records.image?_eq {c : Ctx} {m : MicroOp} {e : Event} (h : Event.Records c m e) :
    e.image? = m.imageUnder c.backlight := by
  cases m <;> cases e
  case tx.tx =>
    obtain ⟨rfl, rfl, rfl⟩ := h
    rfl
  case wait.wait => rfl
  all_goals exact h.elim

/-- Induction along micro-operations and the entries they record, one for one. -/
theorem Recorded.induction {c : Ctx} {motive : List MicroOp → List Event → Prop} (nil : motive [] [])
    (cons : ∀ {m e ms es}, Event.Records c m e → motive ms es → motive (m :: ms) (e :: es)) :
    ∀ {ms es}, Recorded c ms es → motive ms es
  | [], [], _ => nil
  | _ :: _, _ :: _, ⟨he, hr⟩ => cons he (Recorded.induction nil cons hr)
  | [], _ :: _, h => h.elim
  | _ :: _, [], h => h.elim

theorem Recorded.append {c : Ctx} {ms ms' : List MicroOp} {es es' : List Event} (h : Recorded c ms es)
    (h' : Recorded c ms' es') : Recorded c (ms ++ ms') (es ++ es') :=
  h.induction (motive := fun ms es => Recorded c (ms ++ ms') (es ++ es')) h' fun he hr => ⟨he, hr⟩

theorem Recorded.length_eq {c : Ctx} {ms : List MicroOp} {es : List Event} (h : Recorded c ms es) :
    es.length = ms.length :=
  h.induction (motive := fun ms es => es.length = ms.length) rfl fun _ ih => congrArg (· + 1) ih

theorem Recorded.not_failed {c : Ctx} {ms : List MicroOp} {es : List Event} (h : Recorded c ms es) :
    ∀ e ∈ es, e.failed = false :=
  h.induction (motive := fun _ es => ∀ e ∈ es, e.failed = false) (fun _ he => nomatch he)
    fun he ih => List.forall_mem_cons.2 ⟨he.not_failed, ih⟩

theorem Recorded.imagesOf_eq {c : Ctx} {ms : List MicroOp} {es : List Event} (h : Recorded c ms es) :
    imagesOf es = imagesUnder c.backlight ms := by
  refine h.induction (motive := fun ms es => imagesOf es = imagesUnder c.backlight ms) rfl fun he ih => ?_
  simp only [imagesOf, imagesUnder, List.filterMap_cons, he.image?_eq] at ih ⊢
  rw [ih]

/-! ### A run that goes on -/

/-- What the run of `ms` from `s` to `t` does when it goes on, `new` being the entries it records (R18, R27, R58). Runs
that follow each other compose (`RunRecords.trans`). -/
structure RunRecords (c : Ctx) (ms : List MicroOp) (s t : State) (new : List Event) : Prop where
  hist : t.inst.hist = s.inst.hist ++ new
  recorded : Recorded c ms new
  now_le : s.now ≤ t.now
  within : ∀ e ∈ new, s.now ≤ e.start ∧ e.start ≤ e.stop ∧ e.stop ≤ t.now
  ordered : new.Pairwise (fun a b => a.stop ≤ b.start)
  seq : t.inst.seq = s.inst.seq.map (fun q => { q with upc := q.upc + ms.length })
  frame : s.SameButSequencer t

theorem RunRecords.nil (c : Ctx) (s : State) : RunRecords c [] s s [] where
  hist := by simp
  recorded := trivial
  now_le := Nat.le_refl _
  within := by simp
  ordered := .nil
  seq := by simp
  frame := .refl s

/-- A transaction that succeeds records one entry, over the time it takes (R110, R115). -/
theorem transmit_advance_runRecords {c : Ctx} {v : Nibble} {rs en : Bool} {s : State}
    (hs : s.nextTx.status = .ok) :
    RunRecords c [.tx v rs en] s
      ((transmit c.addr (image v rs c.backlight en) s).mapInst (Inst.advance (.tx v rs en)))
      [.tx s.now s.txDone c.addr (image v rs c.backlight en) .ok] := by
  have hnow : s.now ≤ s.txDone := Nat.le_add_right _ _
  exact {
    hist := by simp [hs]
    recorded := ⟨⟨rfl, rfl, rfl⟩, trivial⟩
    now_le := hnow
    within := by simp [Event.start, Event.stop, hnow]
    ordered := List.pairwise_singleton _ _
    seq := rfl
    frame := transmit_advance_sameButSequencer _ _ _ _ }

/-- A wait records one entry, of its minimum and its excess (R130). -/
theorem waitWhole_runRecords (c : Ctx) (n : Nat) (s : State) :
    RunRecords c [.wait n] s (waitWhole n s) [.wait s.now (s.now + n + s.nextOver) n] where
  hist := by simp [waitWhole_eq]
  recorded := ⟨⟨rfl, Nat.le_add_right _ _⟩, trivial⟩
  now_le := by simp only [waitWhole_eq]; omega
  within := by simp only [waitWhole_eq, List.mem_singleton, forall_eq, Event.start, Event.stop]; omega
  ordered := List.pairwise_singleton _ _
  seq := by rw [waitWhole_eq]; rfl
  frame := waitWhole_sameButSequencer n s

theorem runMicro_records {c : Ctx} {m : MicroOp} {s t : State} (h : runMicro c m s = .ok t) :
    ∃ e, RunRecords c [m] s t [e] := by
  rcases runMicro_ok h with ⟨v, rs, en, rfl, hs, rfl⟩ | ⟨n, rfl, rfl⟩
  · exact ⟨_, transmit_advance_runRecords hs⟩
  · exact ⟨_, waitWhole_runRecords c n s⟩

/-- What the first run records has ended before anything the second records begins. -/
theorem RunRecords.trans {c : Ctx} {ms ms' : List MicroOp} {s u t : State} {new new' : List Event}
    (h : RunRecords c ms s u new) (h' : RunRecords c ms' u t new') :
    RunRecords c (ms ++ ms') s t (new ++ new') where
  hist := by rw [h'.hist, h.hist, List.append_assoc]
  recorded := h.recorded.append h'.recorded
  now_le := Nat.le_trans h.now_le h'.now_le
  within e he := by
    rcases List.mem_append.1 he with he | he
    · obtain ⟨hstart, hle, hstop⟩ := h.within e he
      exact ⟨hstart, hle, Nat.le_trans hstop h'.now_le⟩
    · obtain ⟨hstart, hle, hstop⟩ := h'.within e he
      exact ⟨Nat.le_trans h.now_le hstart, hle, hstop⟩
  ordered := by
    refine List.pairwise_append.2 ⟨h.ordered, h'.ordered, fun a ha b hb => ?_⟩
    obtain ⟨-, -, hstop⟩ := h.within a ha
    obtain ⟨hstart, -, -⟩ := h'.within b hb
    exact Nat.le_trans hstop hstart
  seq := by simp [h'.seq, h.seq, Function.comp_def, Nat.add_assoc]
  frame := h.frame.trans h'.frame

theorem runMicros_records {c : Ctx} {ms : List MicroOp} {s t : State} (h : runMicros c ms s = .ok t) :
    ∃ new, RunRecords c ms s t new := by
  induction ms generalizing s with
  | nil =>
    obtain rfl : s = t := by simpa using h
    exact ⟨[], .nil c s⟩
  | cons m ms ih =>
    obtain ⟨u, hm, hms⟩ := runMicros_cons_ok h
    obtain ⟨e, he⟩ := runMicro_records hm
    obtain ⟨new, hnew⟩ := ih hms
    exact ⟨e :: new, he.trans hnew⟩

/-- Settles O23: by induction along the micro-program, each micro-operation records its entry in the time it takes, and
the run of what follows starts when it has ended (`runMicros_records`). -/
theorem programsRunInOrder : Obligations.ProgramsRunInOrder := by
  unfold Obligations.ProgramsRunInOrder
  intro c ms s t q hq h
  obtain ⟨new, r⟩ := runMicros_records h
  exact ⟨new, r.hist, r.recorded, r.recorded.length_eq,
    fun e he => ⟨r.recorded.not_failed e he, r.within e he⟩,
    r.ordered, r.recorded.imagesOf_eq, by simp [r.seq, hq], r.frame⟩

end Sys2Proof.Machine
end

section
/-! PROOFS. The nested FSM counters: what they issue from a state of the registers on, put together from nibbles, bytes
and the steps of each operation (R28, R151, R191). -/

namespace Sys2Proof.Machine

/-- The registers issue exactly these micro-operations from here on, and then none. -/
def Fsm.Issues (op : Option Operation) (buf : List Byte) (f : Fsm) (ms : List MicroOp) : Prop :=
  f.trace op buf (ms.length + 1) = ms

section
variable {op : Option Operation} {buf : List Byte} {f : Fsm} {ms : List MicroOp}

theorem Fsm.issues_nil (h : f.microOp op = none) : f.Issues op buf [] := by
  simp [Fsm.Issues, Fsm.trace, h]

/-- The first micro-operation is the one the registers issue now; the others follow when it has completed. -/
theorem Fsm.issues_cons {m : MicroOp} :
    f.Issues op buf (m :: ms) ↔ f.microOp op = some m ∧ (f.after op buf m).Issues op buf ms := by
  unfold Fsm.Issues
  rw [List.length_cons, Fsm.trace]
  cases hm : f.microOp op with
  | none => simp
  | some m' =>
    simp only [List.cons.injEq, Option.some.injEq]
    exact and_congr_right fun h => by rw [h]

/-! ### Nibbles and bytes -/

/-- A nibble write goes through the four phases of R151; what follows is decided when it is done. -/
theorem Fsm.issues_nib {v : Nibble} {rs : Bool}
    (h : (Fsm.nibDone op buf { f with nibVal := v, nibRs := rs, nibPhase := .holdLo }).Issues op buf ms) :
    (f.startNib v rs).Issues op buf (nibProg v rs ++ ms) :=
  Fsm.issues_cons.2 ⟨rfl, Fsm.issues_cons.2 ⟨rfl, Fsm.issues_cons.2 ⟨rfl, Fsm.issues_cons.2 ⟨rfl, h⟩⟩⟩⟩

/-- A byte is its high nibble, then its low (R153); what follows is decided when both are done. -/
theorem Fsm.issues_byte {b : Byte} {rs : Bool} (hb : f.sending op buf = some (b, rs))
    (h : (Fsm.byteDone op buf { f with
      nibVal := loNibble b, nibRs := rs, nibPhase := .holdLo, byteHalf := true }).Issues op buf ms) :
    (f.startByte b rs).Issues op buf (byteProg b rs ++ ms) := by
  have hs : ∀ (v : Nibble) (r half : Bool) (p : NibPhase),
      Fsm.sending op buf { f with nibVal := v, nibRs := r, nibPhase := p, byteHalf := half } = some (b, rs) :=
    fun _ _ _ _ => hb
  rw [byteProg, List.append_assoc]
  refine Fsm.issues_nib (f := { f with byteHalf := false }) ?_
  rw [Fsm.nibDone, hs]
  refine Fsm.issues_nib (f := { f with nibVal := hiNibble b, nibRs := rs, nibPhase := .holdLo, byteHalf := true }) ?_
  rw [Fsm.nibDone, hs]
  exact h

/-- With no nibble under way, the wait that ends a step of the operation comes next. -/
theorem Fsm.issues_stepWait {t : Nat} (hp : f.nibPhase = .idle) (ht : f.stepWait op = some t)
    (h : (f.stepDone op buf).Issues op buf ms) : f.Issues op buf (.wait t :: ms) := by
  refine Fsm.issues_cons.2 ⟨by simp [Fsm.microOp, hp, ht], ?_⟩
  simpa only [Fsm.after, hp] using h

/-- With no nibble under way and no wait to come, the operation is at its end. -/
theorem Fsm.issues_end (hp : f.nibPhase = .idle) (ht : f.stepWait op = none) : f.Issues op buf [] :=
  Fsm.issues_nil (by simp [Fsm.microOp, hp, ht])

end

/-! ### INIT_PROG -/

section
variable {buf : List Byte} {st : InitStep} {ms : List MicroOp} {t : Nat}

/-- A step of the InitSequencer that writes a raw nibble. -/
theorem Fsm.enterInit_nibble {v : Nibble} (hv : st.nibble = some v) (hb : st.byte = none) (ht : st.stepWait = some t)
    (h : ∀ f : Fsm, (f.enterInit st.next).Issues (some .init) buf ms) (f : Fsm) :
    (f.enterInit st).Issues (some .init) buf (nibProg v false ++ .wait t :: ms) := by
  simp only [Fsm.enterInit, hv]
  refine Fsm.issues_nib ?_
  simp only [Fsm.nibDone, Fsm.sending, hb, Option.map_none]
  exact Fsm.issues_stepWait rfl ht (h _)

/-- A step of the InitSequencer that sends a command byte. -/
theorem Fsm.enterInit_byte {b : Byte} (hv : st.nibble = none) (hb : st.byte = some b) (ht : st.stepWait = some t)
    (h : ∀ f : Fsm, (f.enterInit st.next).Issues (some .init) buf ms) (f : Fsm) :
    (f.enterInit st).Issues (some .init) buf (byteProg b false ++ .wait t :: ms) := by
  simp only [Fsm.enterInit, hv, hb]
  refine Fsm.issues_byte (by simp [Fsm.sending, hb]) ?_
  exact Fsm.issues_stepWait rfl ht (h _)

end

/-- R191: the InitSequencer goes through its ten states in order. -/
theorem Fsm.startInit_issues (buf : List Byte) (f : Fsm) : f.startInit.Issues (some .init) buf initProg := by
  have hdone : ∀ f : Fsm, (f.enterInit .done).Issues (some .init) buf [] := fun _ => Fsm.issues_end rfl rfl
  have hentry := Fsm.enterInit_byte (st := .entry) rfl rfl rfl hdone
  have hclear := Fsm.enterInit_byte (st := .clear) rfl rfl rfl hentry
  have hdctl := Fsm.enterInit_byte (st := .dctl) rfl rfl rfl hclear
  have hfset := Fsm.enterInit_byte (st := .fset) rfl rfl rfl hdctl
  have hn2 := Fsm.enterInit_nibble (st := .n2) rfl rfl rfl hfset
  have hn3c := Fsm.enterInit_nibble (st := .n3c) rfl rfl rfl hn2
  have hn3b := Fsm.enterInit_nibble (st := .n3b) rfl rfl rfl hn3c
  have hn3a := Fsm.enterInit_nibble (st := .n3a) rfl rfl rfl hn3b
  exact Fsm.issues_stepWait rfl rfl (hn3a _)

/-! ### WB_PROG -/

/-- The registers where the data byte of index `wb_i` is next: the row change comes before index 16 (R216), and the end
when all are sent. -/
def Fsm.nextData (buf : List Byte) (f : Fsm) : Fsm :=
  if f.wbI = f.wbEff then { f with wbStep := .done, nibPhase := .idle }
  else if f.wbI = 16 then Fsm.startByte cmdRow1 false { f with wbStep := .row1 }
  else f.enterData buf

/-- A data byte that is done is followed by the next index. -/
theorem Fsm.byteDone_data {buf : List Byte} {f : Fsm} (h : f.wbStep = .data) :
    f.byteDone (some .write) buf = Fsm.nextData buf { f with wbI := f.wbI + 1 } := by
  simp [Fsm.byteDone, Fsm.nextData, h]

/-- The registers send the byte of index `wb_i`, and go on with the next. -/
theorem Fsm.enterData_issues {buf : List Byte} {b : Byte} {ms : List MicroOp} {f : Fsm}
    (hb : buf[f.wbI.toNat]? = some b)
    (h : ∀ g : Fsm, g.wbI = f.wbI + 1 → g.wbEff = f.wbEff → (g.nextData buf).Issues (some .write) buf ms) :
    (f.enterData buf).Issues (some .write) buf (byteProg b true ++ ms) := by
  have hd : buf.getD f.wbI.toNat 0 = b := by simp [List.getD, hb]
  simp only [Fsm.enterData, hd]
  refine Fsm.issues_byte (by simp only [Fsm.sending, hd]) ?_
  rw [Fsm.byteDone_data rfl]
  exact h _ rfl rfl

/-- By induction on the bytes still to send: from index `wb_i` on the registers issue the data part of WB_PROG (R215,
R216). -/
theorem Fsm.nextData_issues {buf : List Byte} (hbuf : buf.length ≤ 32) (bs : List Byte) {f : Fsm}
    (hf : f.wbEff.toNat = buf.length) (hi : f.wbI.toNat ≤ buf.length) (hd : buf.drop f.wbI.toNat = bs) :
    (f.nextData buf).Issues (some .write) buf (wbData f.wbI.toNat bs) := by
  induction bs generalizing f with
  | nil =>
    have hlen : buf.length ≤ f.wbI.toNat := List.drop_eq_nil_iff.1 hd
    have he : f.wbI = f.wbEff := BitVec.eq_of_toNat_eq (by omega)
    simp only [Fsm.nextData, he, if_true]
    exact Fsm.issues_end rfl rfl
  | cons b bs ih =>
    have hb : buf[f.wbI.toNat]? = some b := by
      simpa [hd] using (List.getElem?_drop (xs := buf) (i := f.wbI.toNat) (j := 0)).symm
    have hlt : f.wbI.toNat < buf.length := (List.getElem?_eq_some_iff.1 hb).1
    have he : f.wbI ≠ f.wbEff := fun h => by rw [h, hf] at hlt; exact Nat.lt_irrefl _ hlt
    have hdata : ∀ g : Fsm, g.wbI = f.wbI → g.wbEff = f.wbEff → (g.enterData buf).Issues (some .write) buf
        (byteProg b true ++ wbData (f.wbI.toNat + 1) bs) := by
      intro g hgi hge
      refine Fsm.enterData_issues (by rw [hgi, hb]) fun g' hi' he' => ?_
      have hn : g'.wbI.toNat = f.wbI.toNat + 1 := by
        have hsucc : f.wbI.toNat + (1#6).toNat < 2 ^ 6 := by simp only [BitVec.toNat_ofNat]; omega
        rw [hi', hgi]
        exact BitVec.toNat_add_of_lt hsucc
      rw [← hn]
      refine ih (by rw [he', hge, hf]) (by omega) ?_
      rw [hn, ← List.drop_drop, hd]
      rfl
    have h16 : f.wbI.toNat = 16 ↔ f.wbI = 16 := ⟨fun h => BitVec.eq_of_toNat_eq h, fun h => by rw [h]; rfl⟩
    rw [Fsm.nextData, if_neg he, wbData]
    by_cases hr : f.wbI = 16
    · rw [if_pos hr, if_pos (h16.2 hr), List.append_assoc, List.append_assoc]
      exact Fsm.issues_byte rfl (Fsm.issues_stepWait rfl rfl (hdata _ rfl rfl))
    · rw [if_neg hr, if_neg (mt h16.1 hr)]
      exact hdata f rfl rfl

/-- R210: the Clear, the Home and then the data, each with what follows it. -/
theorem Fsm.startWrite_issues {len : Word7} {buf : List Byte} (h : LegalWrite len buf) (f : Fsm) :
    (f.startWrite len).Issues (some .write) buf (wbProg len buf) := by
  obtain ⟨hpos, -, hlen⟩ := h
  have hne : len ≠ 0 := by rintro rfl; simp at hpos
  have h32 := effLen_le len
  have hbuf : 1 ≤ buf.length := by rw [hlen, effLen, Config.renderMax]; omega
  have hdata : ∀ g : Fsm, g.wbI = 0 → g.wbEff = BitVec.ofNat 6 (effLen len) →
      (g.enterData buf).Issues (some .write) buf (wbData 0 buf) := by
    intro g hi he
    have heff : g.wbEff.toNat = buf.length := by rw [he, hlen, BitVec.toNat_ofNat]; omega
    have hnext : g.nextData buf = g.enterData buf := by
      rw [Fsm.nextData, if_neg, if_neg] <;> rw [hi]
      · decide
      · intro h
        simp only [← h, BitVec.ofNat_eq_ofNat, BitVec.toNat_ofNat] at heff
        omega
    have h0 : g.wbI.toNat = 0 := by rw [hi]; rfl
    have h := Fsm.nextData_issues (by omega) buf heff (by omega) (by rw [h0]; rfl)
    rwa [hnext, h0] at h
  simp only [wbProg, hne, if_false, ← hlen, List.take_length, List.append_assoc]
  exact Fsm.issues_byte rfl (Fsm.issues_stepWait rfl rfl (Fsm.issues_byte rfl (Fsm.issues_stepWait rfl rfl
    (hdata _ rfl rfl))))

/-- R254: the one Clear, with no wait after it. -/
theorem Fsm.startDetach_issues (buf : List Byte) (f : Fsm) :
    f.startDetach.Issues (some .detach) buf detachProg := by
  rw [detachProg, ← List.append_nil (byteProg _ _)]
  exact Fsm.issues_byte rfl (Fsm.issues_end rfl rfl)

/-- Settles O55: each operation's registers issue its program, put together from the bytes and waits of its steps. -/
theorem fsmIssuesThePrograms : Obligations.FsmIssuesThePrograms := by
  unfold Obligations.FsmIssuesThePrograms
  exact fun f => ⟨f.startInit_issues [], fun _ _ h => f.startWrite_issues h, f.startDetach_issues []⟩

end Sys2Proof.Machine
end

section
/-! PROOFS. What every turn of the `Inst` in focus keeps: the other instances, the history, the refused mark and the
context; and that it depends on the others through their addresses alone. -/

namespace Sys2Proof.Machine

/-! ### What is kept -/

/-- What every turn of the `Inst` in focus keeps but the start of an ATTACH, which makes a context. -/
structure State.Continues (s t : State) : Prop where
  peers : t.peers = s.peers
  hist : s.inst.hist <+: t.inst.hist
  refused : s.inst.refused = true → t.inst.refused = true
  ctx : t.inst.ctx = s.inst.ctx ∨ t.inst.ctx = none

/-- An ATTACH starts: from DETACHED, with the other instances as they are. -/
def State.Attaches (s t : State) : Prop :=
  s.inst.life = .detached ∧ t.peers = s.peers ∧ ∃ addr caller now, t.inst = s.inst.startAttach addr caller now

/-- What every turn of the `Inst` in focus does. -/
def State.TurnsInto (s t : State) : Prop := s.Continues t ∨ s.Attaches t

namespace State.TurnsInto

variable {s t : State}

theorem peers (h : s.TurnsInto t) : t.peers = s.peers := by
  rcases h with h | ⟨-, h, -⟩
  · exact h.peers
  · exact h

theorem hist (h : s.TurnsInto t) : s.inst.hist <+: t.inst.hist := by
  rcases h with h | ⟨-, -, _, _, _, h⟩
  · exact h.hist
  · rw [h]
    exact List.prefix_rfl

theorem refused (h : s.TurnsInto t) (hr : s.inst.refused = true) : t.inst.refused = true := by
  rcases h with h | ⟨-, -, _, _, _, h⟩
  · exact h.refused hr
  · rw [h]
    exact hr

theorem ctx (h : s.TurnsInto t) (hl : s.inst.life ≠ .detached) : t.inst.ctx = s.inst.ctx ∨ t.inst.ctx = none := by
  rcases h with h | ⟨hd, -⟩
  · exact h.ctx
  · exact absurd hd hl

/-- The request lines, the time and the draws do not matter. -/
theorem of_same_instances {s' : State} (h : s'.TurnsInto t) (hi : s'.inst = s.inst) (hp : s'.peers = s.peers) :
    s.TurnsInto t := by
  rcases h with h | h
  · exact .inl ⟨hp ▸ h.peers, hi ▸ h.hist, hi ▸ h.refused, hi ▸ h.ctx⟩
  · unfold State.Attaches at h
    rw [hi, hp] at h
    exact .inr h

end State.TurnsInto

namespace State.Continues

/-- A change of the `Inst` in focus that leaves the history, the mark and the context alone. -/
theorem of_same {s t : State} (hp : t.peers = s.peers) (hh : t.inst.hist = s.inst.hist)
    (hr : t.inst.refused = s.inst.refused) (hc : t.inst.ctx = s.inst.ctx) : s.Continues t :=
  ⟨hp, hh ▸ List.prefix_rfl, fun h => hr.trans h, .inl hc⟩

theorem refl (s : State) : s.Continues s := of_same rfl rfl rfl rfl

theorem trans {s u t : State} (h : s.Continues u) (h' : u.Continues t) : s.Continues t where
  peers := h'.peers.trans h.peers
  hist := h.hist.trans h'.hist
  refused := h'.refused ∘ h.refused
  ctx := by
    rcases h'.ctx with hc | hc
    · exact h.ctx.imp hc.trans hc.trans
    · exact .inr hc

/-- The marking of a run (R32). -/
theorem refuse (s : State) (row : RefusalRow) : s.Continues (s.refuse row) :=
  ⟨rfl, List.prefix_rfl, fun _ => rfl, .inl rfl⟩

/-! ### Runs of micro-operations -/

theorem abort (s : State) (kind : TxKind) : s.Continues (s.mapInst (Inst.abort kind)) where
  peers := rfl
  hist := by simp
  refused := by simp
  ctx := by
    rw [State.mapInst_inst, Inst.abort]
    cases s.inst.life
    case attaching | detaching => exact .inr rfl
    case writing | detached | ready => exact .inl rfl

theorem complete (s : State) : s.Continues (s.mapInst Inst.complete) where
  peers := rfl
  hist := by simp
  refused := by simp
  ctx := by
    rw [State.mapInst_inst, Inst.complete]
    cases s.inst.life
    case detaching => exact .inr rfl
    case attaching | writing | detached | ready => exact .inl rfl

theorem settle (s : State) : s.Continues s.settle := by
  rcases s.settle_cases with ⟨-, he⟩ | ⟨-, t, -, -, he⟩ | ⟨-, -, he⟩ <;> rw [he]
  · exact complete s
  · exact of_same rfl rfl rfl rfl
  · exact refl s

theorem transmit (addr : Word7) (img : Byte) (s : State) : s.Continues (transmit addr img s) :=
  ⟨rfl, List.prefix_append _ _, id, .inl rfl⟩

theorem advance (m : MicroOp) (s : State) : s.Continues (s.mapInst (Inst.advance m)) := of_same rfl rfl rfl rfl

theorem finishWait (s : State) : s.Continues (finishWait s) := by
  unfold Machine.finishWait
  split
  · exact refl s
  · exact ⟨rfl, List.prefix_append _ _, id, .inl rfl⟩

theorem waitWhole (t : Nat) (s : State) : s.Continues (waitWhole t s) :=
  (of_same rfl rfl rfl rfl : s.Continues (startWait t s)).trans (finishWait _)

theorem waitTurn (t : Nat) (s : State) : s.Continues (waitTurn t s) := by
  unfold Machine.waitTurn
  split
  · exact waitWhole t s
  · exact finishWait s

theorem txMicro (addr : Word7) (img : Byte) (m : MicroOp) (s : State) :
    s.Continues (txMicro addr img m s).finish := by
  have h := transmit addr img s
  rcases txMicro_cases addr img m s with ⟨-, he⟩ | ⟨kind, -, he⟩ <;> rw [he]
  · exact h.trans ((advance m _).trans (settle _))
  · exact h.trans (abort _ kind)

/-- By induction along the micro-program. -/
theorem runMicros (c : Ctx) (ms : List MicroOp) (s : State) : s.Continues (runMicros c ms s).finish := by
  induction ms generalizing s with
  | nil => exact settle s
  | cons m ms ih =>
    rw [Machine.runMicros]
    cases hm : runMicro c m s with
    | ok u =>
      refine State.Continues.trans ?_ (ih u)
      rcases runMicro_ok hm with ⟨v, rs, en, rfl, -, rfl⟩ | ⟨n, rfl, rfl⟩
      · exact (transmit _ _ s).trans (advance _ _)
      · exact waitWhole n s
    | aborted u =>
      obtain ⟨v, rs, en, kind, rfl, -, rfl⟩ := runMicro_aborted hm
      exact (transmit _ _ s).trans (abort _ kind)

/-! ### Turns -/

theorem grantTurn (s : State) : s.Continues (grantTurn s) := by
  unfold Machine.grantTurn Inst.grant
  cases s.inst.waiters[s.nextPick % s.inst.waiters.length]? <;> exact of_same rfl rfl rfl rfl

theorem registerTurn (ok : Bool) (s : State) : s.Continues (registerTurn ok s) := by
  rcases registerTurn_cases ok s with ⟨-, -, he⟩ | he <;> rw [he]
  · cases ok
    · exact ⟨rfl, List.prefix_rfl, id, .inr rfl⟩
    · exact of_same rfl rfl rfl rfl
  · exact refl s

theorem issueWrite (len : Word7) (s : State) : s.Continues (issueWrite len s) := by
  rcases issueWrite_cases len s with ⟨row, he⟩ | ⟨-, -, he | ⟨-, -, he⟩⟩ <;> rw [he]
  · exact refuse s row
  · exact of_same rfl rfl rfl rfl
  · exact of_same rfl rfl rfl rfl

theorem issueDetach (s : State) : s.Continues (issueDetach s) := by
  rcases issueDetach_cases s with ⟨row, he⟩ | ⟨-, -, he⟩ <;> rw [he]
  · exact refuse s row
  · exact of_same rfl rfl rfl rfl

theorem resetEvent (s : State) : s.Continues s.resetEvent := by
  rcases resetEvent_cases s with ⟨-, he⟩ | ⟨-, he⟩ <;> rw [he]
  · exact refl s
  · exact refuse s _

end State.Continues

theorem issueAttach_turnsInto (addr : Word7) (s : State) :
    s.TurnsInto (issueAttach addr s) := by
  rcases issueAttach_cases addr s with ⟨-, he⟩ | ⟨-, -, he⟩ | ⟨-, he | he⟩ | ⟨hl, -, he⟩ <;> rw [he]
  · exact .inl (.refuse s _)
  · exact .inl (.refuse s _)
  · exact .inl (.of_same rfl rfl rfl rfl)
  · exact .inl (.of_same rfl rfl rfl rfl)
  · exact .inr ⟨hl, rfl, addr, s.port.caller, s.now, rfl⟩

theorem hostTurn_turnsInto {e : HostEvent} {s t : State} (h : hostTurn e s = .next t) :
    s.TurnsInto t := by
  rcases hostTurn_cases h with ⟨r, -, rfl | ⟨a, rfl⟩ | ⟨len, rfl⟩ | rfl | rfl⟩ | ⟨-, rfl⟩ | ⟨-, rfl⟩ | ⟨-, rfl⟩
  · exact .inl (.of_same rfl rfl rfl rfl)
  · exact (issueAttach_turnsInto a { s with port := r }).of_same_instances rfl rfl
  · exact State.TurnsInto.of_same_instances (.inl (.issueWrite len { s with port := r })) rfl rfl
  · exact State.TurnsInto.of_same_instances (.inl (.issueDetach { s with port := r })) rfl rfl
  · exact State.TurnsInto.of_same_instances (.inl (.refuse { s with port := r } .f1)) rfl rfl
  · exact .inl (.refuse s _)
  · exact .inl (.refuse s _)
  · exact .inl (.resetEvent s)

theorem blockTurn_continues {whole : Bool} {s t : State} (h : blockTurn whole s = .next t) : s.Continues t := by
  rcases blockTurn_cases h with ⟨c, q, v, rs, en, ms, rest, -, -, -, rfl⟩ | ⟨c, q, n, rest, -, -, -, rfl⟩
    | ⟨-, -, -, rfl⟩ | ⟨-, rfl⟩ | rfl
  · exact .runMicros c _ s
  · exact (State.Continues.waitTurn n s).trans (.settle _)
  · exact .grantTurn s
  · exact .complete s
  · exact .refl _

/-- Every instruction, in an operation or out of it. -/
theorem exec_turnsInto {i : Instr} {s t : State} (h : exec i s = .next t) : s.TurnsInto t := by
  by_cases hf : i.format = .nib5 ∨ i.format = .lcd9
  · rw [exec_eq_execProgram hf] at h
    obtain ⟨c, q, -, -, rfl⟩ := underOperation_next h
    exact .inl (.runMicros c _ s)
  cases i <;> simp only [Instr.format, reduceCtorEq, or_self, or_false, or_true, not_true_eq_false] at hf
  case idle =>
    obtain rfl : s = t := by simpa [exec, execIdle] using h
    exact .inl (.refl s)
  case attach addr =>
    obtain rfl : issueAttach addr s = t := by simpa [exec, execAttach] using h
    exact issueAttach_turnsInto addr s
  case write len =>
    obtain rfl : issueWrite len s = t := by simpa [exec, execWrite] using h
    exact .inl (.issueWrite len s)
  case detach =>
    obtain rfl : issueDetach s = t := by simpa [exec, execDetach] using h
    exact .inl (.issueDetach s)
  case portEnHi d bl rs =>
    obtain ⟨c, q, -, -, rfl⟩ := underOperation_next h
    exact .inl (.txMicro _ _ _ s)
  case portEnLo d bl rs =>
    obtain ⟨c, q, -, -, rfl⟩ := underOperation_next h
    exact .inl (.txMicro _ _ _ s)

/-- Every turn but a change of focus. -/
theorem step_turnsInto {s t : State} (hf : ∀ k, s.nextTurn ≠ .focus k) (h : step s = .next t) :
    s.TurnsInto t := by
  rcases step_cases h with ⟨dt, -, rfl⟩ | ⟨k, hk, -⟩ | ⟨e, -, -, he⟩ | ⟨ok, -, -, rfl⟩ | ⟨whole, -, -, hb⟩
  · exact .inl (.of_same rfl rfl rfl rfl)
  · exact absurd hk (hf k)
  · exact (hostTurn_turnsInto he).of_same_instances rfl rfl
  · exact State.TurnsInto.of_same_instances (.inl (.registerTurn ok s.dropTurn)) rfl rfl
  · exact State.TurnsInto.of_same_instances (.inl (blockTurn_continues hb)) rfl rfl

/-! ### The statements -/

/-- Settles O44: of all turns only the start of an ATTACH makes a context, and it starts from DETACHED
(`step_turnsInto`). -/
theorem contextIsFixedWithinAnAttachment : Obligations.ContextIsFixedWithinAnAttachment := by
  unfold Obligations.ContextIsFixedWithinAnAttachment
  intro s t c hl hc hf h
  exact ((step_turnsInto hf h).ctx hl).imp_left fun he => he.trans hc

/-- Settles O45: every instruction, event and turn keeps the mark (`exec_turnsInto`, `hostTurn_turnsInto`,
`blockTurn_continues`), and a change of focus puts the marked one among the others. -/
theorem refusedIsSticky : Obligations.RefusedIsSticky := by
  unfold Obligations.RefusedIsSticky
  refine ⟨fun s t hr hf h => (step_turnsInto hf h).refused hr, ?_,
    fun i s t hr h => (exec_turnsInto h).refused hr,
    fun e s t hr h => (hostTurn_turnsInto h).refused hr,
    fun whole s t hr h => (blockTurn_continues h).refused hr,
    fun ok s hr => (State.Continues.registerTurn ok s).refused hr⟩
  intro s t k p hr hk hp h
  have ht : t = s.dropTurn.focus k := by simpa [step, hk] using h.symm
  have hlt : k < s.peers.length := (List.getElem?_eq_some_iff.1 hp).1
  rcases s.dropTurn.focus_cases k with ⟨hn, -⟩ | ⟨p', -, he⟩
  · simp [hp] at hn
  · exact ⟨s.inst, by simp [ht, he, hlt], hr⟩

/-- Settles O46: a turn appends to the history or leaves it (`step_turnsInto`). -/
theorem historyOnlyGrows : Obligations.HistoryOnlyGrows := by
  unfold Obligations.HistoryOnlyGrows
  intro s t hf h
  obtain ⟨new, hnew⟩ := (step_turnsInto hf h).hist
  exact ⟨new, hnew.symm⟩

end Sys2Proof.Machine
end

section
/-! PROOFS. A turn of the `Inst` in focus reads of the others their addresses alone. -/

namespace Sys2Proof.Machine

/-- The bus with other instances beside the one in focus. -/
def State.withPeers (ps : List Inst) (s : State) : State := { s with peers := ps }

/-- A run with other instances beside the one in focus. -/
def Ran.withPeers (ps : List Inst) : Ran → Ran
  | .ok s => .ok (s.withPeers ps)
  | .aborted s => .aborted (s.withPeers ps)

/-- An outcome with other instances beside the one in focus. -/
def outcomeWithPeers (ps : List Inst) : Host.Outcome State Fault Refusal → Host.Outcome State Fault Refusal
  | .next s => .next (s.withPeers ps)
  | .fault r => .fault r
  | .refused r => .refused r

/-! ### Runs of micro-operations do not read the others -/

section
variable (ps : List Inst) (s : State)

theorem State.settle_withPeers : (s.withPeers ps).settle = s.settle.withPeers ps := by
  unfold State.settle
  rw [apply_ite (State.withPeers ps)]
  rfl

theorem txMicro_withPeers (addr : Word7) (img : Byte) (m : MicroOp) :
    txMicro addr img m (s.withPeers ps) = (txMicro addr img m s).withPeers ps := by
  have hn : (s.withPeers ps).nextTx = s.nextTx := rfl
  unfold txMicro
  rw [hn]
  cases s.nextTx.status <;> rfl

theorem waitWhole_withPeers (t : Nat) : waitWhole t (s.withPeers ps) = (waitWhole t s).withPeers ps := by
  rw [waitWhole_eq, waitWhole_eq]
  rfl

theorem waitTurn_withPeers (t : Nat) : waitTurn t (s.withPeers ps) = (waitTurn t s).withPeers ps := by
  have hi : (s.withPeers ps).inst = s.inst := rfl
  unfold waitTurn
  rw [hi]
  cases hd : s.inst.dly with
  | idle => exact waitWhole_withPeers ps s t
  | running t' tStart => simp only [finishWait, hi, hd]; rfl

theorem runMicro_withPeers (c : Ctx) (m : MicroOp) :
    runMicro c m (s.withPeers ps) = (runMicro c m s).withPeers ps := by
  cases m with
  | tx v rs en => exact txMicro_withPeers ps s _ _ _
  | wait t => exact congrArg Ran.ok (waitWhole_withPeers ps s t)

theorem runMicros_withPeers (c : Ctx) (ms : List MicroOp) :
    runMicros c ms (s.withPeers ps) = (runMicros c ms s).withPeers ps := by
  induction ms generalizing s with
  | nil => rfl
  | cons m ms ih =>
    rw [runMicros, runMicro_withPeers, runMicros]
    cases runMicro c m s with
    | ok u => exact ih u
    | aborted u => rfl

theorem Ran.finish_withPeers (r : Ran) : (r.withPeers ps).finish = r.finish.withPeers ps := by
  cases r with
  | ok s => exact s.settle_withPeers ps
  | aborted s => rfl

theorem underOperation_withPeers {run run' : Ctx → Ran} (h : ∀ c, run' c = (run c).withPeers ps) :
    underOperation (s.withPeers ps) run' = outcomeWithPeers ps (underOperation s run) := by
  have hi : (s.withPeers ps).inst = s.inst := rfl
  unfold underOperation
  rw [hi]
  cases s.inst.ctx with
  | none => rfl
  | some c =>
    cases s.inst.seq with
    | none => rfl
    | some q => exact congrArg Host.Outcome.next (by rw [h c, Ran.finish_withPeers])

end

/-! ### Requests read the addresses alone -/

/-- The addresses that the instances of a list hold. -/
def heldAddresses (ps : List Inst) : List (Option Word7) := ps.map fun p => p.ctx.map Ctx.addr

section
variable {ps : List Inst} {s : State}

theorem State.peerHolds_withPeers (h : heldAddresses ps = heldAddresses s.peers) (addr : Word7) :
    (s.withPeers ps).peerHolds addr = s.peerHolds addr := by
  have hold : ∀ l : List Inst,
      l.any (fun p => p.ctx.map Ctx.addr == some addr) = (heldAddresses l).any (· == some addr) := fun l => by
    rw [heldAddresses, List.any_map]
    rfl
  rw [peerHolds, peerHolds, hold, hold, ← h]
  rfl

theorem issueAttach_withPeers (h : heldAddresses ps = heldAddresses s.peers) (addr : Word7) :
    issueAttach addr (s.withPeers ps) = (issueAttach addr s).withPeers ps := by
  unfold issueAttach
  rw [State.peerHolds_withPeers h]
  simp only [apply_ite (State.withPeers ps)]
  rfl

theorem issueWrite_withPeers (len : Word7) : issueWrite len (s.withPeers ps) = (issueWrite len s).withPeers ps := by
  unfold issueWrite
  simp only [apply_ite (State.withPeers ps)]
  rfl

theorem issueDetach_withPeers : issueDetach (s.withPeers ps) = (issueDetach s).withPeers ps := by
  unfold issueDetach
  simp only [apply_ite (State.withPeers ps)]
  rfl

theorem exec_withPeers (h : heldAddresses ps = heldAddresses s.peers) (i : Instr) :
    exec i (s.withPeers ps) = outcomeWithPeers ps (exec i s) := by
  by_cases hf : i.format = .nib5 ∨ i.format = .lcd9
  · rw [exec_eq_execProgram hf, exec_eq_execProgram hf]
    exact underOperation_withPeers ps s fun c => runMicros_withPeers ps s c _
  cases i <;> simp only [Instr.format, reduceCtorEq, or_self, or_false, or_true, not_true_eq_false] at hf
  case idle => rfl
  case attach addr => exact congrArg Host.Outcome.next (issueAttach_withPeers h addr)
  case write len => exact congrArg Host.Outcome.next (issueWrite_withPeers len)
  case detach => exact congrArg Host.Outcome.next issueDetach_withPeers
  case portEnHi d bl rs => exact underOperation_withPeers ps s fun c => txMicro_withPeers ps s _ _ _
  case portEnLo d bl rs => exact underOperation_withPeers ps s fun c => txMicro_withPeers ps s _ _ _

/-! ### Turns -/

theorem hostTurn_withPeers (h : heldAddresses ps = heldAddresses s.peers) (e : HostEvent) :
    hostTurn e (s.withPeers ps) = outcomeWithPeers ps (hostTurn e s) := by
  cases e with
  | request r =>
    unfold hostTurn
    dsimp only
    cases decodeReq16 r.word with
    | ok i => exact exec_withPeers (s := { s with port := r }) h i
    | error e => rfl
  | read => rfl
  | control => rfl
  | reset =>
    refine congrArg Host.Outcome.next ?_
    unfold State.resetEvent
    rw [apply_ite (State.withPeers ps)]
    rfl

theorem registerTurn_withPeers (ok : Bool) :
    registerTurn ok (s.withPeers ps) = (registerTurn ok s).withPeers ps := by
  unfold registerTurn
  rw [apply_ite (State.withPeers ps)]
  rfl

theorem blockTurn_withPeers (h : heldAddresses ps = heldAddresses s.peers) (whole : Bool) :
    blockTurn whole (s.withPeers ps) = outcomeWithPeers ps (blockTurn whole s) := by
  have hf : fetch whole (s.withPeers ps) = fetch whole s := rfl
  unfold blockTurn
  rw [hf]
  cases fetch whole s with
  | instr i => exact exec_withPeers h i
  | wait t => exact congrArg Host.Outcome.next (by rw [waitTurn_withPeers, State.settle_withPeers])
  | finish => exact congrArg Host.Outcome.next (State.settle_withPeers ps s)
  | grant => rfl
  | nothing => rfl
  | noContext => rfl
  | notAnImage => rfl

theorem step_withPeers (h : heldAddresses ps = heldAddresses s.peers) (hf : ∀ k, s.nextTurn ≠ .focus k) :
    step (s.withPeers ps) = outcomeWithPeers ps (step s) := by
  have hif : ∀ o o' : Host.Outcome State Fault Refusal, o' = outcomeWithPeers ps o →
      ifMeaningful (s.withPeers ps) o' = outcomeWithPeers ps (ifMeaningful s o) := by
    rintro o _ rfl
    unfold ifMeaningful
    rw [apply_ite (outcomeWithPeers ps)]
    rfl
  have hn : (s.withPeers ps).nextTurn = s.nextTurn := rfl
  unfold step
  rw [hn]
  cases ht : s.nextTurn with
  | host e => exact hif _ _ (hostTurn_withPeers (s := s.dropTurn) h e)
  | register ok => exact hif _ _ (congrArg Host.Outcome.next (registerTurn_withPeers (s := s.dropTurn) ok))
  | single => exact hif _ _ (blockTurn_withPeers (s := s.dropTurn) h false)
  | whole => exact hif _ _ (blockTurn_withPeers (s := s.dropTurn) h true)
  | pass dt => rfl
  | focus k => exact absurd ht (hf k)

end

/-- Settles O48: a turn leaves the others as they are (`step_turnsInto`), and with others that hold the same addresses
it does the same (`step_withPeers`). -/
theorem instancesAreIndependent : Obligations.InstancesAreIndependent := by
  unfold Obligations.InstancesAreIndependent
  intro s t others hf ha h
  have hs : step (s.withPeers others) = outcomeWithPeers others (step s) := step_withPeers ha hf
  rw [h] at hs
  exact ⟨(step_turnsInto hf h).peers, hs⟩

end Sys2Proof.Machine
end

section
/-! PROOFS. What one step does: the transaction at `upc`, an instruction placed for the next step, a marked run, a
micro-operation outside an operation, and a WRITE that blocks its caller. -/

namespace Sys2Proof.Machine

/-! ### The transaction at `upc` -/

/-- Where a transaction stands at `upc`, a single turn is the PORT8 instruction of its image (R157). -/
theorem fetchAt_single_tx {bl : Bool} {q : Seq} {v : Nibble} {rs en : Bool} {rest : List MicroOp}
    (hd : q.prog.drop q.upc = .tx v rs en :: rest) :
    fetchAt false bl q = .instr (if en then .portEnHi v bl rs else .portEnLo v bl rs) := by
  unfold fetchAt
  rw [hd]
  simp [fetchTx, decodePort8_image]

/-- A fetched instruction runs. -/
theorem blockTurn_instr {whole : Bool} {s : State} {i : Instr} (h : fetch whole s = .instr i) :
    blockTurn whole s = exec i s := by
  rw [blockTurn, h]

/-- Where an operation runs, the fetch looks at its program. -/
theorem fetch_running (whole : Bool) {s : State} {c : Ctx} {q : Seq} (hc : s.inst.ctx = some c)
    (hq : s.inst.seq = some q) : fetch whole s = fetchAt whole c.backlight q := by
  rw [fetch, hc, hq]

theorem ifMeaningful_of_not_refused {s : State} (h : s.inst.refused = false) (o : Host.Outcome State Fault Refusal) :
    ifMeaningful s o = o := by
  simp [ifMeaningful, h]

/-- Settles O9: the image decodes to the instruction with its fields (`decodePort8_image`), and the fetch answers it. -/
theorem stepRunsTheTransaction : Obligations.StepRunsTheTransaction := by
  unfold Obligations.StepRunsTheTransaction
  intro s c q v rs en rest hr ht hc hq hd
  refine ⟨_, decodePort8_image v rs c.backlight en, rfl, ?_⟩
  have hf : fetch false s.dropTurn =
      .instr (if en then .portEnHi v c.backlight rs else .portEnLo v c.backlight rs) := by
    rw [fetch_running false (s := s.dropTurn) hc hq, fetchAt_single_tx hd]
  rw [step, ht]
  exact (ifMeaningful_of_not_refused hr _).trans (blockTurn_instr hf)

/-! ### An instruction placed for the next step -/

theorem decodePort8_format {w : Byte} {i : Instr} (h : decodePort8 w = .ok i) : i.format = .port8 := by
  unfold decodePort8 at h
  split at h
  · cases h; rfl
  split at h <;> cases h
  rfl

theorem decodeNib5_format {w : BitVec 5} {i : Instr} (h : decodeNib5 w = .ok i) : i.format = .nib5 := by
  unfold decodeNib5 at h
  split at h
  · cases h; rfl
  split at h <;> cases h
  rfl

theorem decodeLcd9_format {w : BitVec 9} {i : Instr} (h : decodeLcd9 w = .ok i) : i.format = .lcd9 := by
  unfold decodeLcd9 at h
  iterate 6
    split at h
    · cases h; rfl
  split at h <;> cases h
  rfl

theorem decodeReq16_format {w : Word16} {i : Instr} (h : decodeReq16 w = .ok i) : i.format = .req16 := by
  rcases decodeReq16_ok h with rfl | ⟨a, rfl⟩ | ⟨len, rfl⟩ | rfl <;> rfl

/-- A word read in a format is an instruction of that format. -/
theorem decode_format {f : Format} {w : Nat} {i : Instr} (h : decode f w = .ok i) : i.format = f := by
  unfold decode at h
  split at h
  · cases f
    case req16 => exact decodeReq16_format h
    case port8 => exact decodePort8_format h
    case nib5 => exact decodeNib5_format h
    case lcd9 => exact decodeLcd9_format h
  · cases h

theorem firstOk_some {a b : Except DecodeError Instr} {i : Instr} (h : firstOk a b = some i) :
    a = .ok i ∨ b = .ok i := by
  unfold firstOk at h
  split at h
  · cases h; exact .inl rfl
  · exact .inr (ok_of_toOption h)

/-- A table word that is an instruction is one in some format. -/
theorem decodeTableWord_some {nbits w : Nat} {i : Instr} (h : decodeTableWord nbits w = some i) :
    decode i.format w = .ok i := by
  have hany : ∃ f, decode f w = .ok i := by
    unfold decodeTableWord at h
    split at h
    · exact (firstOk_some h).elim (fun h => ⟨_, h⟩) fun h => ⟨_, h⟩
    split at h
    · exact ⟨_, ok_of_toOption h⟩
    split at h
    · exact (firstOk_some h).elim (fun h => ⟨_, h⟩) fun h => ⟨_, h⟩
    split at h
    · exact ⟨_, ok_of_toOption h⟩
    · cases h
  obtain ⟨f, hf⟩ := hany
  rwa [decode_format hf]

/-- The micro-program of a NIB5 or LCD9 instruction, by itself, is read back as the instruction (R92). -/
theorem wholeAt_expand {i : Instr} (h : i.format = .nib5 ∨ i.format = .lcd9) : wholeAt (expand i) = some i := by
  have hdata : ∀ b : Byte, (decodeLcd9 (lcd9 true b)).toOption = some (.data b) := by decide
  cases i <;> simp only [Instr.format, reduceCtorEq, or_self] at h
  case data b => simp [wholeAt, expand, byteProg, nibAt, nibProg, hdata]
  all_goals rfl

/-- Where an instruction begins at `upc`, a whole turn takes it. -/
theorem fetchAt_whole {bl : Bool} {q : Seq} {i : Instr} {v : Nibble} {rs en : Bool} {rest : List MicroOp}
    (hd : q.prog.drop q.upc = .tx v rs en :: rest) (hi : wholeFrom 0 q.prog q.upc = some i) :
    fetchAt true bl q = .instr i := by
  unfold fetchAt
  rw [hd]
  simp [hi]

/-- The fetch finds a placed PORT8 instruction. -/
theorem fetch_placed_port8 {i : Instr} (h : i.format = .port8) (s : State) :
    fetch false (s.mapInst (Inst.running (backlightOf i) (expand i))) = .instr i := by
  cases i <;> simp only [Instr.format, reduceCtorEq] at h
  case portEnHi d bl rs => exact (fetch_running false rfl rfl).trans (fetchAt_single_tx (en := true) rfl)
  case portEnLo d bl rs => exact (fetch_running false rfl rfl).trans (fetchAt_single_tx (en := false) rfl)

/-- The fetch finds a placed NIB5 or LCD9 instruction. -/
theorem fetch_placed_whole {i : Instr} (h : i.format = .nib5 ∨ i.format = .lcd9) (s : State) :
    fetch true (s.mapInst (Inst.running (backlightOf i) (expand i))) = .instr i := by
  have hx : ∃ v rs en l, expand i = .tx v rs en :: l := by
    cases i <;> simp only [Instr.format, reduceCtorEq, or_self] at h <;> exact ⟨_, _, _, _, rfl⟩
  obtain ⟨v, rs, en, l, hx⟩ := hx
  have hw : wholeFrom 0 (expand i) 0 = some i := by
    rw [← wholeAt_expand h, hx]
    rfl
  exact (fetch_running true rfl rfl).trans (fetchAt_whole (q := ⟨expand i, 0⟩) hx hw)

/-- A pushed turn of the block is taken by the next step. -/
theorem step_pushTurn_block {s : State} (hr : s.inst.refused = false) (whole : Bool) :
    step (s.pushTurn (if whole then .whole else .single)) = blockTurn whole s := by
  cases whole <;> exact ifMeaningful_of_not_refused hr _

/-- A pushed request is run by the next step. -/
theorem step_pushTurn_request {s : State} {r : Request} {i : Instr} (hr : s.inst.refused = false)
    (hd : decodeReq16 r.word = .ok i) : step (s.pushTurn (.host (.request r))) = exec i { s with port := r } := by
  refine (ifMeaningful_of_not_refused hr _).trans ?_
  rw [State.dropTurn_pushTurn, hostTurn, hd]

/-- A word read as a request is the descriptor it is. -/
theorem decode_req16 {w : Nat} {i : Instr} (h : decode .req16 w = .ok i) : decodeReq16 (BitVec.ofNat 16 w) = .ok i := by
  unfold decode at h
  split at h
  · exact h
  · cases h

theorem backlightOf_whole {i : Instr} (h : i.format = .nib5 ∨ i.format = .lcd9) : backlightOf i = true := by
  cases i <;> simp only [Instr.format, reduceCtorEq, or_self] at h <;> rfl

/-- Settles O11: a request goes through the lines; every other instruction is the program of an operation that runs, and
the fetch finds it there (`fetch_placed_port8`, `fetch_placed_whole`). -/
theorem placedInstructionRuns : Obligations.PlacedInstructionRuns := by
  unfold Obligations.PlacedInstructionRuns
  intro s nbits w i hr h
  have hd := decodeTableWord_some h
  have hrun : (s.mapInst (Inst.running (backlightOf i) (expand i))).inst.refused = false := hr
  have hwhole : i.format = .nib5 ∨ i.format = .lcd9 →
      step ((s.mapInst (Inst.running true (expand i))).pushTurn .whole) =
        exec i (s.mapInst (Inst.running (backlightOf i) (expand i))) := fun hf => by
    rw [← backlightOf_whole hf]
    exact (step_pushTurn_block hrun true).trans (blockTurn_instr (fetch_placed_whole hf s))
  rw [State.withFetchWord, h]
  cases hf : i.format <;> simp only [State.place, hf, reduceCtorEq, if_true, if_false]
  case req16 => exact step_pushTurn_request hr (decode_req16 (hf ▸ hd))
  case port8 => exact (step_pushTurn_block hrun false).trans (blockTurn_instr (fetch_placed_port8 hf s))
  case nib5 => exact hwhole (.inl hf)
  case lcd9 => exact hwhole (.inr hf)

/-! ### A marked run -/

/-- Settles O12: `step` asks for the mark before a turn of the one in focus, and not before time passes or another comes
into focus. -/
theorem refusedRunStops : Obligations.RefusedRunStops := by
  unfold Obligations.RefusedRunStops
  intro s hr
  have hstop : ∀ o, ifMeaningful s o = .refused .runHasNoMeaning := fun o => if_pos hr
  refine ⟨fun e ht => ?_, fun ok ht => ?_, fun ht => ?_, fun ht => ?_, fun dt ht => ?_, fun k ht => ?_⟩
    <;> rw [step, ht]
  case refine_1 | refine_2 | refine_3 | refine_4 => exact hstop _
  case refine_5 => rfl
  case refine_6 => exact ⟨_, rfl⟩

/-! ### Micro-operations outside an operation -/

theorem underOperation_fault {s : State} (h : s.inst.ctx = none ∨ s.inst.seq = none) (run : Ctx → Ran) :
    underOperation s run = .fault .noOperation := by
  unfold underOperation
  split
  · simp_all
  · rfl
  · rfl

/-- Settles O22: every PORT8, NIB5 and LCD9 instruction runs under the operation's context (`underOperation_fault`). -/
theorem noMicroOperationOutsideAnOperation : Obligations.NoMicroOperationOutsideAnOperation := by
  unfold Obligations.NoMicroOperationOutsideAnOperation
  intro s i hf h
  cases i <;> simp only [Instr.format, ne_eq, not_true_eq_false] at hf <;> exact underOperation_fault h _

/-! ### A WRITE that blocks its caller -/

/-- An accepted WRITE of a nonzero length (R250). -/
theorem issueWrite_accepted {len : Word7} {s : State} (hl : s.inst.life = .ready ∨ s.inst.life = .writing)
    (ho : s.inst.outstanding s.port.caller = false) (hne : len ≠ 0) (h64 : len.toNat ≤ 64) :
    issueWrite len s = s.mapInst fun i =>
      { i with waiters := assocPut s.port.caller ⟨len, latched len s.port.data⟩ i.waiters } := by
  have hlen : ¬ Config.maxReqLen < len.toNat := by rw [Config.maxReqLen]; omega
  have hlife : ¬ (s.inst.life ≠ .ready ∧ s.inst.life ≠ .writing) := fun h => hl.elim h.1 h.2
  simp only [issueWrite, hlen, hlife, ho, hne, if_false, Bool.false_eq_true]

/-- A new waiter is outstanding, and no other caller becomes so. -/
theorem Inst.outstanding_putWaiter (i : Inst) (k caller : Nat) (w : Waiter) :
    Inst.outstanding caller { i with waiters := assocPut k w i.waiters } =
      if caller = k then true else i.outstanding caller := by
  unfold Inst.outstanding
  split
  · subst_vars
    simp [assocGet_put_self]
  · rw [assocGet_put_ne _ _ _ _ ‹_›]

/-- Settles O39: the accepted WRITE puts its caller among the waiters (`issueWrite_accepted`), where it is outstanding
and so sees no result, and the others as before (`Inst.outstanding_putWaiter`). -/
theorem writeBlocksItsCaller : Obligations.WriteBlocksItsCaller := by
  unfold Obligations.WriteBlocksItsCaller
  intro s len hl ho hne h64
  refine ⟨_, congrArg Host.Outcome.next (issueWrite_accepted hl ho hne h64), rfl, ?_, fun other hother => ?_⟩
  · simp [Inst.resultOf, Inst.outstanding_putWaiter]
  · simp [Inst.resultOf, Inst.outstanding_putWaiter, hother]

end Sys2Proof.Machine
end

section
/-! PROOFS. The invariant `Inst.Sound`: each operation keeps it, and so does every step. Between the micro-operations of
a run an `Inst` is `Midway`: sound but for how far its program has run. -/

namespace Sys2Proof.Machine

/-! ### Result words -/

/-- R94: the word of success is legal when its count is. -/
theorem Result.legal_ok : ∀ {len : Word7}, len.toNat ≤ 64 → legalResult (Result.ok len).word = true := by decide

/-- R271: every kind of failure has a legal word. -/
theorem Result.legal_transportError (kind : TxKind) : legalResult (Result.transportError kind).word = true := by
  cases kind <;> decide

/-! ### The LCD reference state -/

/-- An LCD that is known only in the one configuration of R65. -/
def Lcd.InitOnly (l : Lcd) : Prop := ∀ r, l = .known r → r.cfg = LcdCfg.init

theorem Lcd.initOnly_unknown : Lcd.InitOnly .unknown := nofun

theorem Lcd.InitOnly.cleared {l : Lcd} (h : l.InitOnly) : l.cleared.InitOnly := by
  cases l with
  | unknown => exact h
  | known r => rintro _ ⟨⟩; exact h r rfl

theorem Lcd.InitOnly.homed {l : Lcd} (h : l.InitOnly) : l.homed.InitOnly := by
  cases l with
  | unknown => exact h
  | known r => rintro _ ⟨⟩; exact h r rfl

theorem Lcd.InitOnly.atRow1 {l : Lcd} (h : l.InitOnly) : l.atRow1.InitOnly := by
  cases l with
  | unknown => exact h
  | known r => rintro _ ⟨⟩; exact h r rfl

theorem Lcd.InitOnly.wrote {l : Lcd} (h : l.InitOnly) (b : Byte) : (l.wrote b).InitOnly := by
  cases l with
  | unknown => exact h
  | known r =>
    simp only [Lcd.wrote]
    split
    · rintro _ ⟨⟩; exact h r rfl
    · exact Lcd.initOnly_unknown

/-- R65 to R70: INIT_PROG alone gives the LCD a configuration; every other sequence keeps it or loses the LCD. -/
theorem Lcd.InitOnly.after {l : Lcd} (h : l.InitOnly) (m : MicroOp) (trail : List MicroOp) :
    (lcdAfter m l trail).1.InitOnly := by
  unfold lcdAfter
  dsimp only
  split
  · rintro _ ⟨⟩; rfl
  split
  · exact h.cleared
  split
  · exact h.homed
  split
  · exact h.atRow1
  split
  · exact h.wrote _
  split
  · exact h
  split
  · exact h
  · exact Lcd.initOnly_unknown

theorem Lcd.InitOnly.atEnd {l : Lcd} (h : l.InitOnly) (trail : List MicroOp) : (lcdAtEnd l trail).InitOnly := by
  cases trail with
  | nil => exact h
  | cons m ms => exact Lcd.initOnly_unknown

/-! ### Results and the end of an operation -/

section
variable {i : Inst}

theorem Inst.Sound.setAttachResult {r : Result} (h : i.Sound) (hr : legalResult r.word = true) :
    Inst.Sound { i with attachResult := some r.word } :=
  { h with attachLegal := by rintro _ ⟨⟩; exact hr }

theorem Inst.Sound.putResult {r : Result} (h : i.Sound) (hr : legalResult r.word = true) (k : Nat) :
    Inst.Sound { i with result := assocPut k r.word i.result } :=
  { h with
    resultsCanonical := assocWf_put k _ _ h.resultsCanonical
    resultsLegal := fun a ha => by
      rcases mem_assocPut ha with rfl | ha
      · exact hr
      · exact h.resultsLegal a ha }

theorem Inst.Sound.refuse (h : i.Sound) (row : RefusalRow) : (i.refuse row).Sound :=
  { h with refusedNamed := rfl }

/-- The `Inst` with its program, if any, at another point, and its delay register at another value. -/
def Inst.rewound (upc : Nat) (dly : Dly) (i : Inst) : Inst :=
  { i with seq := i.seq.map (fun q => ⟨q.prog, upc⟩), dly := dly }

theorem Inst.rewound_self {q : Seq} (hq : i.seq = some q) : i.rewound q.upc i.dly = i := by
  have he : i.seq.map (fun p => (⟨p.prog, q.upc⟩ : Seq)) = i.seq := by rw [hq]; rfl
  rw [Inst.rewound, he]

/-- An `Inst` between two micro-operations of its operation, no wait in progress: sound but for how far its program has
run and for the delay register, which `settle` puts right. -/
structure Inst.Midway (i : Inst) : Prop where
  rewound : ∃ upc dly, (i.rewound upc dly).Sound
  idle : i.dly = .idle
  inside : ∃ q, i.seq = some q ∧ q.upc ≤ q.prog.length

/-- R27: where a program runs, an operation does, and `upc` stands inside the program or at its end. -/
theorem Inst.ProgramOk.running {q : Seq} (h : i.ProgramOk) (hq : i.seq = some q) :
    i.life.operation ≠ none ∧ q.upc ≤ q.prog.length := by
  unfold Inst.ProgramOk at h
  cases hl : i.life <;> simp only [hl, hq] at h
  case attaching => exact ⟨nofun, h.2⟩
  case writing => exact ⟨nofun, Nat.le_of_lt h.2⟩
  case detaching => exact ⟨nofun, Nat.le_of_lt h.2⟩

/-- A wait that has ended leaves a sound `Inst` between two micro-operations. -/
theorem Inst.Sound.midway_of_wait {q : Seq} (h : i.Sound) (hq : i.seq = some q) :
    Inst.Midway { i with dly := .idle } where
  rewound := ⟨q.upc, i.dly, by rwa [← i.rewound_self hq] at h⟩
  idle := rfl
  inside := ⟨q, hq, (h.program.running hq).2⟩

theorem Inst.set_idle_self (h : i.dly = .idle) : { i with dly := .idle } = i := by
  rw [← h]

/-- Where a program runs and no wait is in progress, a sound `Inst` is between two micro-operations. -/
theorem Inst.Sound.midway {q : Seq} (h : i.Sound) (hq : i.seq = some q) (hd : i.dly = .idle) : i.Midway :=
  Inst.set_idle_self hd ▸ h.midway_of_wait hq

/-- Where a sound program is at its end, no wait is in progress. -/
theorem Inst.Sound.midway_of_atEnd (h : i.Sound) (ha : i.atEnd = true) :
    ∃ q, i.seq = some q ∧ q.prog.length ≤ q.upc ∧ i.Midway := by
  obtain ⟨q, hq⟩ : ∃ q, i.seq = some q := Option.ne_none_iff_exists'.1 fun hq => by simp [Inst.atEnd, hq] at ha
  have hidle : i.dly = .idle := by simpa [Inst.DelayOk, Inst.waitHere_of_atEnd ha] using h.delay
  exact ⟨q, hq, by simpa [Inst.atEnd_of_seq hq] using ha, h.midway hq hidle⟩

namespace Inst.Midway

/-- The record of a transaction, or of a wait, does not touch what is sound. -/
theorem record (h : i.Midway) (hist : List Event) (latch : PortLatch) :
    Midway { i with hist := hist, portLatch := latch } where
  rewound := by
    obtain ⟨upc, dly, hs⟩ := h.rewound
    exact ⟨upc, dly, { hs with }⟩
  idle := h.idle
  inside := h.inside

/-- R27: a micro-operation that completes inside the program. -/
theorem advance {q : Seq} (h : i.Midway) (hq : i.seq = some q) (hlt : q.upc < q.prog.length) (m : MicroOp) :
    (i.advance m).Midway where
  rewound := by
    obtain ⟨upc, dly, hs⟩ := h.rewound
    have hl : i.lcd.InitOnly := hs.lcdCfg
    have hp : (i.advance m).rewound upc dly = { i.rewound upc dly with
        fsm := (i.advance m).fsm, lcd := (i.advance m).lcd, trail := (i.advance m).trail } := by
      simp [Inst.rewound, hq, Inst.advance]
    refine ⟨upc, dly, ?_⟩
    rw [hp]
    exact { hs with
      lcdCfg := hl.after m i.trail
      settled := by simp [Inst.rewound, hq] }
  idle := h.idle
  inside := ⟨⟨q.prog, q.upc + 1⟩, by simp [hq], hlt⟩

/-- The LCD settles: what is known of it stays in the one configuration. -/
theorem settleLcd (h : i.Midway) {l : Lcd} (hl : i.lcd.InitOnly → l.InitOnly) :
    Midway { i with lcd := l, trail := [] } where
  rewound := by
    obtain ⟨upc, dly, hs⟩ := h.rewound
    exact ⟨upc, dly, { hs with lcdCfg := hl hs.lcdCfg, settled := fun _ => rfl }⟩
  idle := h.idle
  inside := h.inside

theorem closeTrail (h : i.Midway) : i.closeTrail.Midway := h.settleLcd fun hl => hl.atEnd _

theorem loseLcd (h : i.Midway) : i.loseLcd.Midway := h.settleLcd fun _ => Lcd.initOnly_unknown

theorem operation (h : i.Midway) : i.life.operation ≠ none := by
  obtain ⟨upc, dly, hs⟩ := h.rewound
  obtain ⟨q, hq, -⟩ := h.inside
  exact (hs.program.running (q := ⟨q.prog, upc⟩) (by simp [Inst.rewound, hq])).1

/-- The operation ends and the mode is READY: no program, no caller and no WRITE is left. -/
theorem release (h : i.Midway) (ht : i.trail = []) :
    Sound { i with life := .ready, lock := .free, cur := none, opCaller := none, seq := none } := by
  obtain ⟨upc, dly, hs⟩ := h.rewound
  have hctx : i.ctx.isSome = true := hs.context.2 fun hl => h.operation (by rw [show i.life = .detached from hl]; rfl)
  exact { hs with
    lock := rfl
    context := by simp [hctx]
    serving := by simp
    caller := by simp
    waiting := fun _ => .inl rfl
    curLegal := nofun
    oneOutstanding := nofun
    program := trivial
    delay := h.idle
    settled := fun _ => ht }

/-- R38: the operation ends and the context is gone. -/
theorem destroyCtx (h : i.Midway) (ht : i.trail = []) (hw : i.waiters = []) : i.destroyCtx.Sound := by
  obtain ⟨upc, dly, hs⟩ := h.rewound
  exact { hs with
    lock := rfl
    context := by simp
    backlight := nofun
    serving := by simp
    caller := by simp
    waiting := fun hne => absurd hw hne
    curLegal := nofun
    oneOutstanding := nofun
    program := trivial
    delay := rfl
    settled := fun _ => ht }

/-- R279: callers wait in READY and WRITING alone. -/
theorem no_waiters (h : i.Midway) (hl : i.life ≠ .writing) : i.waiters = [] := by
  obtain ⟨upc, dly, hs⟩ := h.rewound
  refine Decidable.byContradiction fun hne => ?_
  rcases hs.waiting hne with hr | hr
  · exact h.operation (by rw [show i.life = .ready from hr]; rfl)
  · exact hl hr

/-- R246, R248: ATTACH ends with an error. -/
theorem failAttach (h : i.Midway) (ht : i.trail = []) (hl : i.life = .attaching) {r : Result}
    (hr : legalResult r.word = true) : (i.failAttach r).Sound :=
  (h.destroyCtx ht (h.no_waiters (by simp [hl]))).setAttachResult hr

/-- R249: ATTACH ends with success. -/
theorem endAttach (h : i.Midway) (ht : i.trail = []) (hl : i.life = .attaching) : i.endAttach.Sound := by
  obtain ⟨upc, dly, hs⟩ := h.rewound
  have hc : i.cur = none := Option.not_isSome_iff_eq_none.1 fun hc =>
    Life.noConfusion (hl.symm.trans (hs.serving.1 hc))
  have hsound := (h.release ht).setAttachResult (r := .ok 0) (Result.legal_ok (by decide))
  rwa [← hc] at hsound

/-- R252: a WRITE ends, with success or failure. -/
theorem endWrite (h : i.Midway) (ht : i.trail = []) (hl : i.life = .writing) {r : Result}
    (hr : legalResult r.word = true) : (i.endWrite r).Sound := by
  obtain ⟨upc, dly, hs⟩ := h.rewound
  have ho : i.opCaller = none := Option.not_isSome_iff_eq_none.1 fun ho =>
    (hs.caller.1 ho).elim (fun ha => Life.noConfusion (hl.symm.trans ha)) fun ha => Life.noConfusion (hl.symm.trans ha)
  have hsound := h.release ht
  rw [← ho] at hsound
  unfold Inst.endWrite
  split
  · exact hsound
  · exact hsound.putResult hr _

/-- R254: DETACH ends. -/
theorem endDetach (h : i.Midway) (ht : i.trail = []) (hl : i.life = .detaching) : i.endDetach.Sound := by
  have hsound := h.destroyCtx ht (h.no_waiters (by simp [hl]))
  unfold Inst.endDetach
  split
  · exact hsound
  · exact hsound.putResult (r := .ok 0) (Result.legal_ok (by decide)) _

/-- R273: an abort ends the operation as its own rule says. -/
theorem abort (h : i.Midway) (kind : TxKind) : (i.abort kind).Sound := by
  have hop := h.operation
  unfold Inst.abort
  cases hl : i.life <;> simp only [hl, Life.operation, ne_eq, not_true_eq_false] at hop ⊢
  case attaching => exact h.loseLcd.failAttach rfl hl (Result.legal_transportError kind)
  case writing => exact h.loseLcd.endWrite rfl hl (Result.legal_transportError kind)
  case detaching => exact h.loseLcd.endDetach rfl hl

/-- R26: the length that a WRITE reports is legal. -/
theorem curLen_le (h : i.Midway) : i.curLen.toNat ≤ 64 := by
  obtain ⟨upc, dly, hs⟩ := h.rewound
  unfold Inst.curLen
  cases hc : i.cur with
  | none => decide
  | some c =>
    obtain ⟨-, h64, -⟩ := hs.curLegal c hc
    exact h64

/-- What is sound but for `upc` and the delay register is sound when these are: inside the program, or at the end of an
ATTACH, and with the wait in progress that stands at `upc`. -/
theorem sound {q : Seq} {dly : Dly} (h : i.Midway) (hq : i.seq = some q)
    (hend : i.life ≠ .attaching → q.upc < q.prog.length) (hd : Inst.DelayOk { i with dly := dly }) :
    Sound { i with dly := dly } := by
  obtain ⟨upc, dly', hs⟩ := h.rewound
  obtain ⟨q', hq', hle⟩ := h.inside
  obtain rfl : q = q' := Option.some.inj (hq.symm.trans hq')
  have hp : i.ProgramOk := by
    have hp := hs.program
    unfold ProgramOk at hp ⊢
    simp only [Inst.rewound, hq, Option.map_some] at hp ⊢
    cases hl : i.life <;> simp only [hl] at hp hend ⊢
    case attaching => exact ⟨hp.1, hle⟩
    case writing => exact ⟨hp.1, hend nofun⟩
    case detaching => exact ⟨hp.1, hend nofun⟩
  exact { hs with
    program := hp
    delay := hd
    settled := by simp [hq] }

/-- R27: at its end an operation completes, but for an ATTACH, which waits there for `REG_OK`. -/
theorem complete {q : Seq} (h : i.Midway) (hq : i.seq = some q) (hend : q.prog.length ≤ q.upc) : i.complete.Sound := by
  have hop := h.operation
  unfold Inst.complete
  cases hl : i.life <;> simp only [hl, Life.operation, ne_eq, not_true_eq_false] at hop ⊢
  case attaching =>
    have hw : i.waitHere = none := Inst.waitHere_of_atEnd (by simpa [Inst.atEnd_of_seq hq] using hend)
    have hd : i.DelayOk := by simpa [Inst.DelayOk, hw] using h.idle
    exact h.sound (dly := i.dly) hq (fun hne => absurd hl hne) hd
  case writing => exact h.closeTrail.endWrite rfl hl (Result.legal_ok h.curLen_le)
  case detaching => exact h.closeTrail.endDetach rfl hl

end Inst.Midway

end

/-! ### Runs of micro-operations -/

section
variable {s : State} {q : Seq}

/-- The moment a micro-operation completes: the operation's end, or the beginning of the wait that follows (R131). -/
theorem settle_sound (h : s.inst.Midway) (hq : s.inst.seq = some q) : s.settle.inst.Sound := by
  have hdelay := s.settle_delayOk h.idle
  have hin : s.inst.atEnd = false → s.inst.life ≠ .attaching → q.upc < q.prog.length := fun ha _ => by
    simpa [Inst.atEnd_of_seq hq] using ha
  rcases s.settle_cases with ⟨ha, he⟩ | ⟨ha, t, -, -, he⟩ | ⟨ha, -, he⟩ <;> rw [he] at hdelay ⊢
  · exact h.complete hq (by simpa [Inst.atEnd_of_seq hq] using ha)
  · exact h.sound hq (hin ha) hdelay
  · have hi := Inst.set_idle_self h.idle
    exact hi ▸ h.sound hq (hin ha) (hi ▸ hdelay)

theorem transmit_midway (h : s.inst.Midway) (addr : Word7) (img : Byte) : (transmit addr img s).inst.Midway :=
  h.record _ _

/-- A transaction that succeeds, and a wait, lead from between two micro-operations to between the next two. -/
theorem runMicro_midway {c : Ctx} {m : MicroOp} {u : State} (h : s.inst.Midway) (hq : s.inst.seq = some q)
    (hlt : q.upc < q.prog.length) (hu : runMicro c m s = .ok u) : u.inst.Midway := by
  rcases runMicro_ok hu with ⟨v, rs, en, rfl, -, rfl⟩ | ⟨n, rfl, rfl⟩
  · exact (transmit_midway h _ _).advance hq hlt _
  · rw [waitWhole_eq]
    have hm := (h.record (s.inst.hist ++ [.wait s.now (s.now + n + s.nextOver) n]) s.inst.portLatch).advance hq hlt
      (.wait n)
    rwa [← Inst.set_idle_self h.idle] at hm

/-- By induction along the micro-program: a run inside the program ends in a sound `Inst`, whether it goes on to its end
or is aborted. -/
theorem runMicros_sound {c : Ctx} {ms : List MicroOp} (h : s.inst.Midway) (hq : s.inst.seq = some q)
    (hle : q.upc + ms.length ≤ q.prog.length) : (runMicros c ms s).finish.inst.Sound := by
  induction ms generalizing s q with
  | nil => exact settle_sound h hq
  | cons m ms ih =>
    rw [List.length_cons] at hle
    rw [runMicros]
    cases hm : runMicro c m s with
    | ok u =>
      obtain ⟨e, hr⟩ := runMicro_records hm
      exact ih (q := ⟨q.prog, q.upc + 1⟩) (runMicro_midway h hq (by omega) hm) (by simp [hr.seq, hq])
        (by simp only; omega)
    | aborted u =>
      obtain ⟨v, rs, en, kind, rfl, -, rfl⟩ := runMicro_aborted hm
      exact (transmit_midway h _ _).abort kind

/-- What stands at `upc`. -/
theorem getElem?_upc_of_drop {m : MicroOp} {rest : List MicroOp} (hd : q.prog.drop q.upc = m :: rest) :
    q.prog[q.upc]? = some m := by
  rw [← List.head?_drop, hd]
  rfl

theorem upc_add_length_le_of_drop {ms rest : List MicroOp} (hd : q.prog.drop q.upc = ms ++ rest)
    (hle : q.upc ≤ q.prog.length) : q.upc + ms.length ≤ q.prog.length := by
  have hlen := congrArg List.length hd
  simp only [List.length_drop, List.length_append] at hlen
  omega

/-- A turn of the block that runs the micro-operations at `upc`. -/
theorem runMicros_turn_sound {c : Ctx} {v : Nibble} {rs en : Bool} {ms rest : List MicroOp} (h : s.inst.Sound)
    (hq : s.inst.seq = some q) (hd : q.prog.drop q.upc = .tx v rs en :: (ms ++ rest)) :
    (runMicros c (.tx v rs en :: ms) s).finish.inst.Sound := by
  have hw : s.inst.waitHere = none := by simp [Inst.waitHere, hq, getElem?_upc_of_drop hd]
  have hidle : s.inst.dly = .idle := by simpa [Inst.DelayOk, hw] using h.delay
  exact runMicros_sound (h.midway hq hidle) hq (upc_add_length_le_of_drop (ms := .tx v rs en :: ms) hd
    (h.program.running hq).2)

/-- Where a wait stands at `upc`, it is in progress, and the block's turn ends it. -/
theorem waitTurn_of_sound {n : Nat} {rest : List MicroOp} (h : s.inst.Sound) (hq : s.inst.seq = some q)
    (hd : q.prog.drop q.upc = .wait n :: rest) :
    ∃ tStart, s.inst.dly = .running n tStart ∧ (waitTurn n s).inst = Inst.advance (.wait n) { s.inst with
      dly := .idle
      hist := s.inst.hist ++ [.wait tStart (s.waitEnd n tStart) n] } := by
  have hw : s.inst.waitHere = some n := Inst.waitHere_eq_some.2 ⟨q, hq, getElem?_upc_of_drop hd⟩
  obtain ⟨tStart, hdly⟩ : ∃ tStart, s.inst.dly = .running n tStart := by simpa [Inst.DelayOk, hw] using h.delay
  exact ⟨tStart, hdly, by simp only [waitTurn, finishWait, hdly]⟩

theorem waitTurn_sound {n : Nat} {rest : List MicroOp} (h : s.inst.Sound) (hq : s.inst.seq = some q)
    (hd : q.prog.drop q.upc = .wait n :: rest) : (waitTurn n s).settle.inst.Sound := by
  obtain ⟨tStart, -, he⟩ := waitTurn_of_sound h hq hd
  have hlt : q.upc < q.prog.length := upc_add_length_le_of_drop (ms := [.wait n]) hd (h.program.running hq).2
  refine settle_sound (q := ⟨q.prog, q.upc + 1⟩) ?_ (by simp [he, hq])
  rw [he]
  exact ((h.midway_of_wait hq).record _ s.inst.portLatch).advance hq hlt _

end

/-! ### The starts of the operations, and the requests -/

section
variable {i : Inst}

/-- R24, R27: outside an operation the lock is free, no program runs and no wait is in progress. -/
theorem Inst.Sound.no_operation (h : i.Sound) (hl : i.life.operation = none) :
    i.seq = none ∧ i.dly = .idle ∧ i.trail = [] ∧ i.cur = none ∧ i.opCaller = none := by
  have hq : i.seq = none := by
    cases hq : i.seq with
    | none => rfl
    | some q => exact absurd hl (h.program.running hq).1
  have hw : i.waitHere = none := by simp [hq]
  refine ⟨hq, by simpa [Inst.DelayOk, hw] using h.delay, h.settled hq, Option.not_isSome_iff_eq_none.1 fun hc => ?_,
    Option.not_isSome_iff_eq_none.1 fun ho => ?_⟩
  · rw [h.serving.1 hc] at hl
    cases hl
  · rcases h.caller.1 ho with ho | ho <;> rw [ho] at hl <;> cases hl

theorem Inst.Sound.startAttach (h : i.Sound) (hl : i.life = .detached) (addr : Word7) (caller now : Nat) :
    (i.startAttach addr caller now).Sound := by
  obtain ⟨-, -, -, hc, -⟩ := h.no_operation (by rw [hl]; rfl)
  exact { h with
    lock := rfl
    context := by simp
    backlight := by rintro _ ⟨⟩; rfl
    serving := by simp [hc]
    caller := by simp
    waiting := fun hne => by rcases h.waiting hne with hr | hr <;> rw [hl] at hr <;> cases hr
    program := ⟨rfl, Nat.zero_le _⟩
    delay := ⟨now, rfl⟩
    settled := nofun }

theorem Inst.Sound.startDetach (h : i.Sound) (hl : i.life = .ready) (hw : i.waiters = []) (caller : Nat) :
    (i.startDetach caller).Sound := by
  obtain ⟨-, hd, -, hc, -⟩ := h.no_operation (by rw [hl]; rfl)
  have hctx : i.ctx.isSome = true := h.context.2 (by rw [hl]; nofun)
  exact { h with
    lock := rfl
    context := by simp [hctx]
    serving := by simp [hc]
    caller := by simp
    waiting := fun hne => absurd hw hne
    program := ⟨rfl, by simp⟩
    delay := hd
    settled := nofun }

/-- A legal WRITE has a program, which begins with a transaction. -/
theorem wbProg_cons {len : Word7} {buf : List Byte} (h : LegalWrite len buf) :
    ∃ v rs en rest, wbProg len buf = .tx v rs en :: rest := by
  have hne : len ≠ 0 := by rintro rfl; exact absurd h.1 (by decide)
  rw [wbProg, if_neg hne]
  exact ⟨_, _, _, _, rfl⟩

/-- R251: a waiter is granted, and its WRITE starts. -/
theorem Inst.Sound.grant (h : i.Sound) (hl : i.life = .ready) (k : Nat) : (i.grant k).Sound := by
  unfold Inst.grant
  split
  · exact h
  · rename_i caller w hk
    obtain ⟨-, hd, -, -, ho⟩ := h.no_operation (by rw [hl]; rfl)
    have hctx : i.ctx.isSome = true := h.context.2 (by rw [hl]; nofun)
    have hlegal : LegalWrite w.len w.buf := h.waitersLegal _ (List.mem_of_getElem? hk)
    obtain ⟨v, rs, en, rest, hp⟩ := wbProg_cons hlegal
    exact { h with
      lock := rfl
      context := by simp [hctx]
      serving := by simp
      caller := by simp [ho]
      waiting := fun _ => .inr rfl
      waitersCanonical := assocWf_eraseIdx k _ h.waitersCanonical
      waitersLegal := fun a ha => h.waitersLegal a ((List.eraseIdx_sublist _ k).subset ha)
      curLegal := by rintro _ ⟨⟩; exact hlegal
      oneOutstanding := by rintro _ ⟨⟩; exact assocGet_eraseIdx k _ _ h.waitersCanonical hk
      program := ⟨⟨_, rfl, rfl⟩, by simp [hp]⟩
      delay := by simpa [Inst.DelayOk, Inst.waitHere, hp] using hd
      settled := nofun }

/-- R250: an accepted WRITE blocks its caller. -/
theorem Inst.Sound.putWaiter (h : i.Sound) (hl : i.life = .ready ∨ i.life = .writing) {caller : Nat} {w : Waiter}
    (ho : i.outstanding caller = false) (hw : LegalWrite w.len w.buf) :
    Inst.Sound { i with waiters := assocPut caller w i.waiters } :=
  { h with
    waiting := fun _ => hl
    waitersCanonical := assocWf_put _ _ _ h.waitersCanonical
    waitersLegal := fun a ha => by
      rcases mem_assocPut ha with rfl | ha
      · exact hw
      · exact h.waitersLegal a ha
    oneOutstanding := fun c hc => by
      have hne : c.caller ≠ caller := by
        rintro rfl
        have hc : i.cur = some c := hc
        simp [Inst.outstanding, hc] at ho
      exact (assocGet_put_ne _ _ _ _ hne).trans (h.oneOutstanding c hc) }

/-- R26: a request of a legal length has the bytes that it latches. -/
theorem legalWrite_latched {len : Word7} (hne : len ≠ 0) (h64 : len.toNat ≤ 64) (data : Vector Byte 64) :
    LegalWrite len (latched len data) := by
  have hpos : len.toNat ≠ 0 := fun h0 => hne (BitVec.eq_of_toNat_eq h0)
  have h32 := effLen_le len
  exact ⟨by omega, h64, by simp only [latched, List.length_take, Vector.length_toList]; omega⟩

/-- R247: `REG_OK` ends the ATTACH whose program is at its end. -/
theorem Inst.Sound.endRegistration (h : i.Sound) (hl : i.life = .attaching) (ha : i.atEnd = true) (ok : Bool) :
    (i.endRegistration ok).Sound := by
  obtain ⟨q, -, -, hm⟩ := h.midway_of_atEnd ha
  cases ok
  · exact hm.closeTrail.failAttach rfl hl (by decide)
  · exact hm.closeTrail.endAttach rfl hl

end

/-! ### Turns -/

section
variable {s t : State}

theorem issueAttach_sound (h : s.inst.Sound) (addr : Word7) : (issueAttach addr s).inst.Sound := by
  rcases issueAttach_cases addr s with ⟨-, he⟩ | ⟨-, -, he⟩ | ⟨-, he | he⟩ | ⟨hl, -, he⟩ <;> rw [he]
  · exact h.refuse _
  · exact h.refuse _
  · exact h.setAttachResult (by decide)
  · exact h.setAttachResult (by decide)
  · exact h.startAttach hl _ _ _

theorem issueWrite_sound (h : s.inst.Sound) (len : Word7) : (issueWrite len s).inst.Sound := by
  rcases issueWrite_cases len s with ⟨row, he⟩ | ⟨hl, ho, he | ⟨hne, h64, he⟩⟩ <;> rw [he]
  · exact h.refuse _
  · exact h.putResult (Result.legal_ok (by decide)) _
  · exact h.putWaiter hl ho (legalWrite_latched hne h64 _)

theorem issueDetach_sound (h : s.inst.Sound) : (issueDetach s).inst.Sound := by
  rcases issueDetach_cases s with ⟨row, he⟩ | ⟨hl, hw, he⟩ <;> rw [he]
  · exact h.refuse _
  · exact h.startDetach hl hw _

theorem hostTurn_sound {e : HostEvent} (h : s.inst.Sound) (ht : hostTurn e s = .next t) : t.inst.Sound := by
  rcases hostTurn_cases ht with ⟨r, -, rfl | ⟨a, rfl⟩ | ⟨len, rfl⟩ | rfl | rfl⟩ | ⟨-, rfl⟩ | ⟨-, rfl⟩ | ⟨-, rfl⟩
  · exact h
  · exact issueAttach_sound (s := { s with port := r }) h a
  · exact issueWrite_sound (s := { s with port := r }) h len
  · exact issueDetach_sound (s := { s with port := r }) h
  · exact h.refuse _
  · exact h.refuse _
  · exact h.refuse _
  · rcases resetEvent_cases s with ⟨-, he⟩ | ⟨-, he⟩ <;> rw [he]
    · exact h
    · exact h.refuse _

theorem registerTurn_sound (h : s.inst.Sound) (ok : Bool) : (registerTurn ok s).inst.Sound := by
  rcases registerTurn_cases ok s with ⟨hl, ha, he⟩ | he <;> rw [he]
  · exact h.endRegistration hl ha ok
  · exact h

theorem blockTurn_sound {whole : Bool} (h : s.inst.Sound) (ht : blockTurn whole s = .next t) : t.inst.Sound := by
  rcases blockTurn_cases ht with ⟨c, q, v, rs, en, ms, rest, -, hq, hd, rfl⟩ | ⟨c, q, n, rest, -, hq, hd, rfl⟩
    | ⟨-, hl, -, rfl⟩ | ⟨ha, rfl⟩ | rfl
  · exact runMicros_turn_sound h hq hd
  · exact waitTurn_sound h hq hd
  · exact h.grant hl _
  · obtain ⟨q, hq, hend, hm⟩ := h.midway_of_atEnd ha
    exact hm.complete hq hend
  · exact h

/-- What every turn keeps of the `Inst` in focus, a step keeps of all instances: the others stay as they are
(`step_turnsInto`), and a change of focus changes none. -/
theorem State.All.step {P : Inst → Prop} (h : s.All P) (hs : step s = .next t)
    (host : ∀ e u, hostTurn e s.dropTurn = .next u → P u.inst) (register : ∀ ok, P (registerTurn ok s.dropTurn).inst)
    (block : ∀ whole u, blockTurn whole s.dropTurn = .next u → P u.inst) : t.All P := by
  by_cases hf : ∃ k, s.nextTurn = .focus k
  · obtain ⟨k, hk⟩ := hf
    obtain rfl : s.dropTurn.focus k = t := by simpa [Machine.step, hk] using hs
    exact State.All.focus (s := s.dropTurn) h k
  · have hpeers := (step_turnsInto (fun k hk => hf ⟨k, hk⟩) hs).peers
    refine ⟨?_, hpeers ▸ h.2⟩
    rcases step_cases hs with ⟨dt, -, rfl⟩ | ⟨k, hk, -⟩ | ⟨e, -, -, he⟩ | ⟨ok, -, -, rfl⟩ | ⟨whole, -, -, hb⟩
    · exact h.1
    · exact absurd ⟨k, hk⟩ hf
    · exact host e t he
    · exact register ok
    · exact block whole t hb

end

/-- Settles O51: the host's events, `REG_OK` and the block's turns each keep the `Inst` in focus sound
(`hostTurn_sound`, `registerTurn_sound`, `blockTurn_sound`), a run of micro-operations through the states between them
(`Inst.Midway`). -/
theorem stepKeepsInstancesSound : Obligations.StepKeepsInstancesSound := by
  unfold Obligations.StepKeepsInstancesSound
  intro s t h hs
  have hi : s.dropTurn.inst.Sound := h.1
  exact h.step hs (fun _ _ => hostTurn_sound hi) (registerTurn_sound hi) (fun _ _ => blockTurn_sound hi)

end Sys2Proof.Machine
end

section
/-! PROOFS. The FSM registers stay in step with `prog` and `upc` (R28): a micro-operation that completes is the one the
registers issue, and an operation that starts sets them to issue its program. -/

namespace Sys2Proof.Machine

section
variable {i : Inst}

/-- The registers issue what is left of the program. -/
theorem Inst.fsmOk_iff :
    i.FsmOk ↔ ∀ q, i.seq = some q →
      i.fsm.Issues i.life.operation ((i.cur.map Cur.buf).getD []) (q.prog.drop q.upc) := by
  simp only [Inst.FsmOk, Fsm.Issues, List.length_drop]

theorem Inst.fsmOk_of_no_seq (h : i.seq = none) : i.FsmOk := fun q hq => by
  rw [h] at hq
  cases hq

/-- R27, R28: `upc` and the registers move on together. -/
theorem Inst.FsmOk.advance {q : Seq} {m : MicroOp} {rest : List MicroOp} (h : i.FsmOk) (hq : i.seq = some q)
    (hd : q.prog.drop q.upc = m :: rest) : (i.advance m).FsmOk := by
  have hissues := Inst.fsmOk_iff.1 h q hq
  rw [hd, Fsm.issues_cons] at hissues
  refine Inst.fsmOk_iff.2 fun q' hq' => ?_
  obtain rfl : (⟨q.prog, q.upc + 1⟩ : Seq) = q' := by simpa [hq] using hq'
  rw [drop_succ_of_drop hd]
  exact hissues.2

/-- The end of an operation leaves no program, and an ATTACH that waits for `REG_OK` is as it was. -/
theorem Inst.FsmOk.complete (h : i.FsmOk) : i.complete.FsmOk := by
  unfold Inst.complete
  split
  · exact Inst.fsmOk_of_no_seq rfl
  · exact Inst.fsmOk_of_no_seq rfl
  · exact h
  · exact h
  · exact h

theorem Inst.startAttach_fsmOk (i : Inst) (addr : Word7) (caller now : Nat) :
    (i.startAttach addr caller now).FsmOk := by
  refine Inst.fsmOk_iff.2 ?_
  rintro _ ⟨⟩
  exact i.fsm.startInit_issues _

theorem Inst.startDetach_fsmOk (i : Inst) (caller : Nat) : (i.startDetach caller).FsmOk := by
  refine Inst.fsmOk_iff.2 ?_
  rintro _ ⟨⟩
  exact i.fsm.startDetach_issues _

theorem Inst.Sound.grant_fsmOk (h : i.Sound) (hf : i.FsmOk) (k : Nat) : (i.grant k).FsmOk := by
  unfold Inst.grant
  split
  · exact hf
  · rename_i caller w hk
    refine Inst.fsmOk_iff.2 ?_
    rintro _ ⟨⟩
    exact Fsm.startWrite_issues (h.waitersLegal _ (List.mem_of_getElem? hk)) i.fsm

theorem Inst.endRegistration_fsmOk (ok : Bool) (i : Inst) : (i.endRegistration ok).FsmOk := by
  cases ok <;> exact Inst.fsmOk_of_no_seq rfl

end

/-! ### Runs of micro-operations -/

section
variable {s t : State} {q : Seq}

theorem settle_fsmOk (h : s.inst.FsmOk) : s.settle.inst.FsmOk := by
  rcases s.settle_cases with ⟨-, he⟩ | ⟨-, t, -, -, he⟩ | ⟨-, -, he⟩ <;> rw [he]
  · exact h.complete
  · exact h
  · exact h

theorem runMicro_fsmOk {c : Ctx} {m : MicroOp} {rest : List MicroOp} {u : State} (h : s.inst.FsmOk)
    (hq : s.inst.seq = some q) (hd : q.prog.drop q.upc = m :: rest) (hu : runMicro c m s = .ok u) : u.inst.FsmOk := by
  rcases runMicro_ok hu with ⟨v, rs, en, rfl, -, rfl⟩ | ⟨n, rfl, rfl⟩
  · have ht : (transmit c.addr (image v rs c.backlight en) s).inst.FsmOk := h
    exact ht.advance hq hd
  · rw [waitWhole_eq]
    have ht : Inst.FsmOk { s.inst with
      dly := .idle
      hist := s.inst.hist ++ [.wait s.now (s.now + n + s.nextOver) n] } := h
    exact ht.advance hq hd

/-- By induction along the micro-operations that stand at `upc`. -/
theorem runMicros_fsmOk {c : Ctx} {ms rest : List MicroOp} (h : s.inst.FsmOk) (hq : s.inst.seq = some q)
    (hd : q.prog.drop q.upc = ms ++ rest) : (runMicros c ms s).finish.inst.FsmOk := by
  induction ms generalizing s q with
  | nil => exact settle_fsmOk h
  | cons m ms ih =>
    rw [runMicros]
    cases hm : runMicro c m s with
    | ok u =>
      obtain ⟨e, hr⟩ := runMicro_records hm
      exact ih (q := ⟨q.prog, q.upc + 1⟩) (runMicro_fsmOk h hq hd hm) (by simp [hr.seq, hq]) (drop_succ_of_drop hd)
    | aborted u =>
      obtain ⟨v, rs, en, kind, rfl, -, rfl⟩ := runMicro_aborted hm
      exact Inst.fsmOk_of_no_seq (Inst.abort_seq _ _)

theorem waitTurn_fsmOk {n : Nat} {rest : List MicroOp} (h : s.inst.Sound) (hf : s.inst.FsmOk)
    (hq : s.inst.seq = some q) (hd : q.prog.drop q.upc = .wait n :: rest) : (waitTurn n s).settle.inst.FsmOk := by
  obtain ⟨tStart, -, he⟩ := waitTurn_of_sound h hq hd
  refine settle_fsmOk ?_
  rw [he]
  have ht : Inst.FsmOk { s.inst with
    dly := .idle
    hist := s.inst.hist ++ [.wait tStart (s.waitEnd n tStart) n] } := hf
  exact ht.advance hq hd

/-! ### Turns -/

theorem issueAttach_fsmOk (hf : s.inst.FsmOk) (addr : Word7) : (issueAttach addr s).inst.FsmOk := by
  rcases issueAttach_cases addr s with ⟨-, he⟩ | ⟨-, -, he⟩ | ⟨-, he | he⟩ | ⟨-, -, he⟩ <;> rw [he]
  · exact hf
  · exact hf
  · exact hf
  · exact hf
  · exact Inst.startAttach_fsmOk _ _ _ _

theorem issueWrite_fsmOk (hf : s.inst.FsmOk) (len : Word7) : (issueWrite len s).inst.FsmOk := by
  rcases issueWrite_cases len s with ⟨row, he⟩ | ⟨-, -, he | ⟨-, -, he⟩⟩ <;> rw [he] <;> exact hf

theorem issueDetach_fsmOk (hf : s.inst.FsmOk) : (issueDetach s).inst.FsmOk := by
  rcases issueDetach_cases s with ⟨row, he⟩ | ⟨-, -, he⟩ <;> rw [he]
  · exact hf
  · exact Inst.startDetach_fsmOk _ _

theorem hostTurn_fsmOk {e : HostEvent} (hf : s.inst.FsmOk) (ht : hostTurn e s = .next t) : t.inst.FsmOk := by
  rcases hostTurn_cases ht with ⟨r, -, rfl | ⟨a, rfl⟩ | ⟨len, rfl⟩ | rfl | rfl⟩ | ⟨-, rfl⟩ | ⟨-, rfl⟩ | ⟨-, rfl⟩
  · exact hf
  · exact issueAttach_fsmOk (s := { s with port := r }) hf a
  · exact issueWrite_fsmOk (s := { s with port := r }) hf len
  · exact issueDetach_fsmOk (s := { s with port := r }) hf
  · exact hf
  · exact hf
  · exact hf
  · rcases resetEvent_cases s with ⟨-, he⟩ | ⟨-, he⟩ <;> rw [he] <;> exact hf

theorem registerTurn_fsmOk (hf : s.inst.FsmOk) (ok : Bool) : (registerTurn ok s).inst.FsmOk := by
  rcases registerTurn_cases ok s with ⟨-, -, he⟩ | he <;> rw [he]
  · exact Inst.endRegistration_fsmOk ok _
  · exact hf

theorem blockTurn_fsmOk {whole : Bool} (h : s.inst.Sound) (hf : s.inst.FsmOk) (ht : blockTurn whole s = .next t) :
    t.inst.FsmOk := by
  rcases blockTurn_cases ht with ⟨c, q, v, rs, en, ms, rest, -, hq, hd, rfl⟩ | ⟨c, q, n, rest, -, hq, hd, rfl⟩
    | ⟨-, -, -, rfl⟩ | ⟨-, rfl⟩ | rfl
  · exact runMicros_fsmOk (ms := .tx v rs en :: ms) hf hq hd
  · exact waitTurn_fsmOk h hf hq hd
  · exact h.grant_fsmOk hf _
  · exact hf.complete
  · exact hf

end

/-- Settles O53: a turn advances `upc` and the registers together, or starts an operation whose program they issue, or
ends one (`hostTurn_fsmOk`, `registerTurn_fsmOk`, `blockTurn_fsmOk`). -/
theorem stepKeepsTheFsm : Obligations.StepKeepsTheFsm := by
  unfold Obligations.StepKeepsTheFsm
  intro s t h hf hs
  have hi : s.dropTurn.inst.Sound := h.1
  have hfi : s.dropTurn.inst.FsmOk := hf.1
  exact hf.step hs (fun _ _ => hostTurn_fsmOk hfi) (registerTurn_fsmOk hfi) (fun _ _ => blockTurn_fsmOk hi hfi)

end Sys2Proof.Machine
end

section
/-! PROOFS. The histories stay sequential and legal (R58, R115, R130, R131): each turn of the `Inst` in focus records
nothing, or entries that begin when or after the last one ends; and time only goes forward, which the others need. -/

namespace Sys2Proof.Machine

/-! ### Histories that stay or grow by one entry -/

section
variable {now now' : Nat} {i j : Inst}

/-- Time only puts a history further into the past. -/
theorem Inst.HistoryOk.mono (h : i.HistoryOk now) (hle : now ≤ now') : i.HistoryOk now' :=
  { h with
    past := fun e he => Nat.le_trans (h.past e he) hle
    delay := fun t tStart hd => (h.delay t tStart hd).imp_left fun hs => Nat.le_trans hs hle }

/-- Where nothing is recorded, and no wait is in progress but one that was, the history stays as legal as it was. -/
theorem Inst.HistoryOk.of_same (h : i.HistoryOk now) (hh : j.hist = i.hist) (hd : j.dly = i.dly ∨ j.dly = .idle) :
    j.HistoryOk now := by
  have hrun : ∀ {t tStart}, j.dly = .running t tStart → i.dly = .running t tStart := fun hj => by
    rcases hd with hd | hd
    · exact hd ▸ hj
    · exact Dly.noConfusion (hd.symm.trans hj)
  constructor
  case legal => exact hh ▸ h.legal
  case sequential => exact hh ▸ h.sequential
  case past => exact hh ▸ h.past
  case delay => exact fun t tStart hj => hh ▸ h.delay t tStart (hrun hj)
  case follows => exact hh ▸ h.follows
  case delayFollows => exact fun t tStart hj => hh ▸ h.delayFollows t tStart (hrun hj)

/-- R131: a wait may begin now, when the last entry ends now, or where it is the 50 ms wait of INIT_PROG. -/
theorem Inst.HistoryOk.startDelay (h : i.HistoryOk now) (hh : j.hist = i.hist) {t : Nat}
    (hd : j.dly = .running t now) (ht : t ≠ 50_000_000 → ∃ a, i.hist.getLast? = some a ∧ a.stop = now) :
    j.HistoryOk now := by
  have hrun : ∀ {t' tStart}, j.dly = .running t' tStart → t = t' ∧ now = tStart := fun hj => by
    simpa using hd.symm.trans hj
  constructor
  case legal => exact hh ▸ h.legal
  case sequential => exact hh ▸ h.sequential
  case past => exact hh ▸ h.past
  case delay =>
    intro t' tStart hj
    obtain ⟨rfl, rfl⟩ := hrun hj
    exact ⟨Nat.le_refl _, hh ▸ h.past⟩
  case follows => exact hh ▸ h.follows
  case delayFollows =>
    intro t' tStart hj hne
    obtain ⟨rfl, rfl⟩ := hrun hj
    obtain ⟨a, ha, hs⟩ := ht hne
    exact ⟨a, hh ▸ ha, hs.symm⟩

/-- The neighbours in a history with one entry more are those before, and the last entry with the new one. -/
theorem follows_append {hist : List Event} {e : Event}
    (h : ∀ n a b, hist[n]? = some a → hist[n + 1]? = some b → a.Follows b)
    (he : ∀ a, hist.getLast? = some a → a.Follows e) (n : Nat) (a b : Event) (ha : (hist ++ [e])[n]? = some a)
    (hb : (hist ++ [e])[n + 1]? = some b) : a.Follows b := by
  have hlt : n + 1 < (hist ++ [e]).length := (List.getElem?_eq_some_iff.1 hb).1
  rw [List.length_append, List.length_singleton] at hlt
  rw [List.getElem?_append_left (by omega)] at ha
  rcases Nat.lt_or_ge (n + 1) hist.length with hin | hout
  · rw [List.getElem?_append_left hin] at hb
    exact h n a b ha hb
  · have hn : n = hist.length - 1 := by omega
    obtain rfl : e = b := by simpa [List.getElem?_append_right hout, show n + 1 - hist.length = 0 by omega] using hb
    exact he a (by rw [List.getLast?_eq_getElem?, ← hn, ha])

/-- R58: an entry is recorded that is legal, begins when the others have ended, and ends now. -/
theorem Inst.HistoryOk.record {e : Event} (h : i.HistoryOk now) (hh : j.hist = i.hist ++ [e]) (hd : j.dly = .idle)
    (legal : e.Legal) (after : ∀ a ∈ i.hist, a.stop ≤ e.start) (hle : now ≤ e.stop)
    (hf : ∀ a, i.hist.getLast? = some a → a.Follows e) : j.HistoryOk e.stop where
  legal a ha := by
    rcases List.mem_append.1 (hh ▸ ha) with ha | ha
    · exact h.legal a ha
    · exact List.mem_singleton.1 ha ▸ legal
  sequential := by
    rw [hh]
    refine List.pairwise_append.2 ⟨h.sequential, List.pairwise_singleton _ _, fun a ha b hb => ?_⟩
    exact List.mem_singleton.1 hb ▸ after a ha
  past a ha := by
    rcases List.mem_append.1 (hh ▸ ha) with ha | ha
    · exact Nat.le_trans (h.past a ha) hle
    · exact List.mem_singleton.1 ha ▸ Nat.le_refl _
  delay t tStart hj := Dly.noConfusion (hd.symm.trans hj)
  follows := by
    rw [hh]
    exact follows_append h.follows hf
  delayFollows t tStart hj := Dly.noConfusion (hd.symm.trans hj)

end

/-! ### The waits of the programs -/

/-- R134: the waits of a byte are holds. -/
theorem wait_mem_byteProg {b : Byte} {rs : Bool} {t : Nat} (h : MicroOp.wait t ∈ byteProg b rs) :
    t = tEnHold ∨ t = tNibHold := by
  simpa [byteProg, nibProg, or_comm, or_left_comm, or_assoc] using h

theorem wait_mem_byteProg_minimum {b : Byte} {rs : Bool} {t : Nat} (h : MicroOp.wait t ∈ byteProg b rs) :
    t ∈ minimums := by
  rcases wait_mem_byteProg h with rfl | rfl <;> decide

theorem wait_mem_wbData {t : Nat} {bs : List Byte} {n : Nat} (h : MicroOp.wait t ∈ wbData n bs) : t ∈ minimums := by
  induction bs generalizing n with
  | nil => simp [wbData] at h
  | cons b bs ih =>
    simp only [wbData, List.mem_append] at h
    rcases h with (h | h) | h
    · split at h
      · rcases List.mem_append.1 h with h | h
        · exact wait_mem_byteProg_minimum h
        · obtain rfl : t = tRow1 := by simpa using h
          decide
      · simp at h
    · exact wait_mem_byteProg_minimum h
    · exact ih h

theorem wait_mem_wbProg {t : Nat} {len : Word7} {buf : List Byte} (h : MicroOp.wait t ∈ wbProg len buf) :
    t ∈ minimums := by
  unfold wbProg at h
  split at h
  · simp at h
  · simp only [List.mem_append, List.mem_singleton, MicroOp.wait.injEq] at h
    rcases h with (((h | rfl) | h) | rfl) | h
    · exact wait_mem_byteProg_minimum h
    · decide
    · exact wait_mem_byteProg_minimum h
    · decide
    · exact wait_mem_wbData h

theorem wait_mem_initProg {t : Nat} (h : MicroOp.wait t ∈ initProg) : t ∈ minimums := by
  have hall : ∀ m ∈ initProg, m.isTx = true ∨ m.minTime ∈ minimums := by decide
  exact (hall _ h).resolve_left nofun

/-- R134: a wait of the program that runs has a minimum of the table. -/
theorem Inst.ProgramOk.wait_minimum {i : Inst} {q : Seq} {t : Nat} (h : i.ProgramOk) (hq : i.seq = some q)
    (ht : MicroOp.wait t ∈ q.prog) : t ∈ minimums := by
  unfold Inst.ProgramOk at h
  cases hl : i.life <;> simp only [hl, hq] at h
  case attaching => exact wait_mem_initProg (h.1 ▸ ht)
  case writing =>
    obtain ⟨⟨c, -, hp⟩, -⟩ := h
    exact wait_mem_wbProg (hp ▸ ht)
  case detaching => exact wait_mem_byteProg_minimum (b := cmdClear) (h.1 ▸ ht)

/-! ### Runs of micro-operations -/

section
variable {s t u : State}

/-- What every turn of the `Inst` in focus keeps: time does not go back, and the history is legal. -/
structure State.KeepsHistory (s t : State) : Prop where
  now_le : s.now ≤ t.now
  history : t.inst.HistoryOk t.now

/-- A turn that records nothing, takes no time and starts no wait. -/
theorem State.KeepsHistory.of_same (h : s.inst.HistoryOk s.now) (hn : t.now = s.now)
    (hh : t.inst.hist = s.inst.hist) (hd : t.inst.dly = s.inst.dly ∨ t.inst.dly = .idle) : s.KeepsHistory t :=
  ⟨Nat.le_of_eq hn.symm, hn ▸ h.of_same hh hd⟩

/-- A micro-operation has just been recorded: the history is legal, its last entry ends now, and no wait is in
progress. -/
structure State.JustRecorded (s : State) : Prop where
  history : s.inst.HistoryOk s.now
  idle : s.inst.dly = .idle
  endsNow : ∃ a, s.inst.hist.getLast? = some a ∧ a.stop = s.now

/-- A recorded entry that ends now is the last. -/
theorem State.JustRecorded.of_record {e : Event} (hh : t.inst.hist = s.inst.hist ++ [e]) (hd : t.inst.dly = .idle)
    (h : t.inst.HistoryOk e.stop) (hn : t.now = e.stop) : t.JustRecorded :=
  ⟨hn ▸ h, hd, e, by simp [hh], hn.symm⟩

theorem Inst.complete_dly (i : Inst) : i.complete.dly = i.dly ∨ i.complete.dly = .idle := by
  unfold Inst.complete
  cases i.life
  case detaching => exact .inr rfl
  case attaching | writing | detached | ready => exact .inl rfl

theorem Inst.abort_dly (kind : TxKind) (i : Inst) : (i.abort kind).dly = i.dly ∨ (i.abort kind).dly = .idle := by
  unfold Inst.abort
  cases i.life
  case attaching | detaching => exact .inr rfl
  case writing | detached | ready => exact .inl rfl

/-- R131: the wait that follows a micro-operation starts when it ends. -/
theorem State.JustRecorded.settle (h : s.JustRecorded) : s.KeepsHistory s.settle := by
  refine ⟨by simp, ?_⟩
  rw [State.settle_now]
  rcases s.settle_cases with ⟨-, he⟩ | ⟨-, t, -, -, he⟩ | ⟨-, -, he⟩ <;> rw [he]
  · exact h.history.of_same (Inst.complete_hist _) (Inst.complete_dly _)
  · exact h.history.startDelay rfl rfl fun _ => h.endsNow
  · exact h.history

/-- A transaction records an entry that takes time, with the backlight on and RW = 0 (R115, R82, R86). -/
theorem transmit_justRecorded (h : s.inst.HistoryOk s.now) (hd : s.inst.dly = .idle) {c : Ctx}
    (hc : c.backlight = true) (v : Nibble) (rs en : Bool) :
    (transmit c.addr (image v rs c.backlight en) s).JustRecorded := by
  have hlt : s.now < s.txDone := Nat.lt_succ_of_le (Nat.le_add_right _ _)
  refine .of_record (transmit_inst_hist ..) hd ?_ rfl
  exact h.record (transmit_inst_hist ..) hd ⟨hlt, image_rw .., (image_bl ..).trans hc⟩ h.past (Nat.le_of_lt hlt)
    fun _ _ => trivial

/-- A wait that starts when the entry before it has ended is recorded at its end (R130, R131). -/
theorem finishWait_justRecorded {n tStart : Nat} (h : s.inst.HistoryOk s.now) (hd : s.inst.dly = .running n tStart)
    (hn : n ∈ minimums) : s.now ≤ (finishWait s).now ∧ (finishWait s).JustRecorded := by
  obtain ⟨hpast, hafter⟩ := h.delay n tStart hd
  have hle : s.now ≤ s.waitEnd n tStart ∧ tStart + n ≤ s.waitEnd n tStart := by
    unfold State.waitEnd
    omega
  simp only [finishWait, hd]
  refine ⟨hle.1, .of_record (s := s) (e := .wait tStart (s.waitEnd n tStart) n) rfl rfl ?_ rfl⟩
  refine h.record rfl rfl ⟨hle.2, hn⟩ hafter hle.1 fun a ha hne => ?_
  obtain ⟨b, hb, hs⟩ := h.delayFollows n tStart hd hne
  obtain rfl : a = b := Option.some.inj (ha.symm.trans hb)
  exact hs

/-- Time that passes before a turn. -/
theorem State.KeepsHistory.of_now_le (h : u.KeepsHistory t) (hle : s.now ≤ u.now) : s.KeepsHistory t :=
  ⟨Nat.le_trans hle h.now_le, h.history⟩

theorem State.JustRecorded.advance (h : s.JustRecorded) (m : MicroOp) : (s.mapInst (Inst.advance m)).JustRecorded :=
  ⟨h.history.of_same rfl (.inl rfl), h.idle, h.endsNow⟩

/-- R273: a failed transaction is recorded, and nothing after it. -/
theorem State.JustRecorded.abort (h : s.JustRecorded) (kind : TxKind) :
    s.KeepsHistory (s.mapInst (Inst.abort kind)) :=
  .of_same h.history rfl (Inst.abort_hist ..) (Inst.abort_dly ..)

theorem waitWhole_justRecorded {n : Nat} (h : s.JustRecorded) (hn : n ∈ minimums) :
    s.now ≤ (waitWhole n s).now ∧ (waitWhole n s).JustRecorded :=
  finishWait_justRecorded (s := startWait n s) (h.history.startDelay rfl rfl fun _ => h.endsNow) rfl hn

section
variable {c : Ctx} {ms : List MicroOp}

/-- A transaction, and what runs after it where it succeeds. -/
theorem runMicros_tx_keepsHistory (h : s.inst.HistoryOk s.now) (hd : s.inst.dly = .idle) (hc : c.backlight = true)
    (rest : ∀ u : State, u.JustRecorded → u.KeepsHistory (runMicros c ms u).finish) (v : Nibble) (rs en : Bool) :
    s.KeepsHistory (runMicros c (.tx v rs en :: ms) s).finish := by
  have htx := transmit_justRecorded h hd hc v rs en
  have hle : s.now ≤ s.txDone := Nat.le_add_right _ _
  rw [runMicros]
  cases hm : runMicro c (.tx v rs en) s with
  | ok u =>
    rcases runMicro_ok hm with ⟨_, _, _, ⟨⟩, -, rfl⟩ | ⟨_, ⟨⟩, -⟩
    exact (rest _ (htx.advance _)).of_now_le hle
  | aborted u =>
    obtain ⟨_, _, _, kind, ⟨⟩, -, rfl⟩ := runMicro_aborted hm
    exact (htx.abort kind).of_now_le hle

/-- By induction along the micro-program, from a micro-operation that has just been recorded. -/
theorem runMicros_keepsHistory (h : s.JustRecorded) (hc : c.backlight = true)
    (hms : ∀ n, MicroOp.wait n ∈ ms → n ∈ minimums) : s.KeepsHistory (runMicros c ms s).finish := by
  induction ms generalizing s with
  | nil => exact h.settle
  | cons m ms ih =>
    have hrest : ∀ n, MicroOp.wait n ∈ ms → n ∈ minimums := fun n hn => hms n (List.mem_cons_of_mem _ hn)
    cases m with
    | tx v rs en => exact runMicros_tx_keepsHistory h.history h.idle hc (fun u hu => ih hu hrest) v rs en
    | wait n =>
      obtain ⟨hle, hw⟩ := waitWhole_justRecorded h (hms n List.mem_cons_self)
      exact (ih hw hrest).of_now_le hle

end

/-! ### Turns -/

/-- A turn of the block that runs the micro-operations at `upc`, the first of them a transaction. -/
theorem runMicros_turn_keepsHistory {c : Ctx} {q : Seq} {v : Nibble} {rs en : Bool} {ms rest : List MicroOp}
    (hi : s.inst.Sound) (h : s.inst.HistoryOk s.now) (hc : s.inst.ctx = some c) (hq : s.inst.seq = some q)
    (hd : q.prog.drop q.upc = .tx v rs en :: (ms ++ rest)) :
    s.KeepsHistory (runMicros c (.tx v rs en :: ms) s).finish := by
  have hw : s.inst.waitHere = none := by simp [Inst.waitHere, hq, getElem?_upc_of_drop hd]
  have hidle : s.inst.dly = .idle := by simpa [Inst.DelayOk, hw] using hi.delay
  have hbl := hi.backlight c hc
  refine runMicros_tx_keepsHistory h hidle hbl (fun u hu => runMicros_keepsHistory hu hbl fun n hn => ?_) v rs en
  exact hi.program.wait_minimum hq (List.mem_of_mem_drop (i := q.upc) (by simp [hd, hn]))

theorem waitTurn_keepsHistory {q : Seq} {n : Nat} {rest : List MicroOp} (hi : s.inst.Sound)
    (h : s.inst.HistoryOk s.now) (hq : s.inst.seq = some q) (hd : q.prog.drop q.upc = .wait n :: rest) :
    s.KeepsHistory (waitTurn n s).settle := by
  obtain ⟨tStart, hdly, -⟩ := waitTurn_of_sound hi hq hd
  have hn := hi.program.wait_minimum hq (List.mem_of_mem_drop (i := q.upc) (hd ▸ List.mem_cons_self))
  obtain ⟨hle, hw⟩ := finishWait_justRecorded h hdly hn
  simp only [waitTurn, hdly]
  exact hw.settle.of_now_le hle

@[simp] theorem Inst.grant_hist (k : Nat) (i : Inst) : (i.grant k).hist = i.hist := by
  unfold Inst.grant
  cases i.waiters[k]? <;> rfl

@[simp] theorem Inst.grant_dly (k : Nat) (i : Inst) : (i.grant k).dly = i.dly := by
  unfold Inst.grant
  cases i.waiters[k]? <;> rfl

theorem blockTurn_keepsHistory {whole : Bool} (hi : s.inst.Sound) (h : s.inst.HistoryOk s.now)
    (ht : blockTurn whole s = .next t) : s.KeepsHistory t := by
  rcases blockTurn_cases ht with ⟨c, q, v, rs, en, ms, rest, hc, hq, hd, rfl⟩ | ⟨c, q, n, rest, -, hq, hd, rfl⟩
    | ⟨-, -, -, rfl⟩ | ⟨-, rfl⟩ | rfl
  · exact runMicros_turn_keepsHistory hi h hc hq hd
  · exact waitTurn_keepsHistory hi h hq hd
  · exact .of_same h rfl (Inst.grant_hist ..) (.inl (Inst.grant_dly ..))
  · exact .of_same h rfl (Inst.complete_hist _) (Inst.complete_dly _)
  · exact ⟨Nat.le_refl _, h⟩

/-- R245: the 50 ms wait of INIT_PROG starts with its ATTACH. -/
theorem issueAttach_keepsHistory (h : s.inst.HistoryOk s.now) (addr : Word7) : s.KeepsHistory (issueAttach addr s) := by
  rcases issueAttach_cases addr s with ⟨-, he⟩ | ⟨-, -, he⟩ | ⟨-, he | he⟩ | ⟨-, -, he⟩ <;> rw [he]
  · exact .of_same h rfl rfl (.inl rfl)
  · exact .of_same h rfl rfl (.inl rfl)
  · exact .of_same h rfl rfl (.inl rfl)
  · exact .of_same h rfl rfl (.inl rfl)
  · exact ⟨Nat.le_refl _, h.startDelay rfl rfl fun hne => absurd rfl hne⟩

theorem issueWrite_keepsHistory (h : s.inst.HistoryOk s.now) (len : Word7) : s.KeepsHistory (issueWrite len s) := by
  rcases issueWrite_cases len s with ⟨row, he⟩ | ⟨-, -, he | ⟨-, -, he⟩⟩ <;> rw [he] <;>
    exact .of_same h rfl rfl (.inl rfl)

theorem issueDetach_keepsHistory (h : s.inst.HistoryOk s.now) : s.KeepsHistory (issueDetach s) := by
  rcases issueDetach_cases s with ⟨row, he⟩ | ⟨-, -, he⟩ <;> rw [he] <;> exact .of_same h rfl rfl (.inl rfl)

theorem hostTurn_keepsHistory {e : HostEvent} (h : s.inst.HistoryOk s.now) (ht : hostTurn e s = .next t) :
    s.KeepsHistory t := by
  rcases hostTurn_cases ht with ⟨r, -, rfl | ⟨a, rfl⟩ | ⟨len, rfl⟩ | rfl | rfl⟩ | ⟨-, rfl⟩ | ⟨-, rfl⟩ | ⟨-, rfl⟩
  · exact .of_same h rfl rfl (.inl rfl)
  · exact (issueAttach_keepsHistory (s := { s with port := r }) h a).of_now_le (Nat.le_refl _)
  · exact (issueWrite_keepsHistory (s := { s with port := r }) h len).of_now_le (Nat.le_refl _)
  · exact (issueDetach_keepsHistory (s := { s with port := r }) h).of_now_le (Nat.le_refl _)
  · exact .of_same h rfl rfl (.inl rfl)
  · exact .of_same h rfl rfl (.inl rfl)
  · exact .of_same h rfl rfl (.inl rfl)
  · rcases resetEvent_cases s with ⟨-, he⟩ | ⟨-, he⟩ <;> rw [he] <;> exact .of_same h rfl rfl (.inl rfl)

theorem registerTurn_keepsHistory (h : s.inst.HistoryOk s.now) (ok : Bool) : s.KeepsHistory (registerTurn ok s) := by
  rcases registerTurn_cases ok s with ⟨-, -, he⟩ | he <;> rw [he]
  · cases ok
    · exact .of_same h rfl rfl (.inr rfl)
    · exact .of_same h rfl rfl (.inl rfl)
  · exact ⟨Nat.le_refl _, h⟩

/-- Every turn but a change of focus. -/
theorem step_keepsHistory (hi : s.inst.Sound) (h : s.inst.HistoryOk s.now) (hf : ∀ k, s.nextTurn ≠ .focus k)
    (hs : step s = .next t) : s.KeepsHistory t := by
  have hi' : s.dropTurn.inst.Sound := hi
  have h' : s.dropTurn.inst.HistoryOk s.dropTurn.now := h
  rcases step_cases hs with ⟨dt, -, rfl⟩ | ⟨k, hk, -⟩ | ⟨e, -, -, he⟩ | ⟨ok, -, -, rfl⟩ | ⟨whole, -, -, hb⟩
  · exact ⟨Nat.le_add_right _ _, h.mono (Nat.le_add_right _ _)⟩
  · exact absurd hk (hf k)
  · exact (hostTurn_keepsHistory h' he).of_now_le (Nat.le_refl _)
  · exact (registerTurn_keepsHistory h' ok).of_now_le (Nat.le_refl _)
  · exact (blockTurn_keepsHistory hi' h' hb).of_now_le (Nat.le_refl _)

end

@[simp] theorem State.focus_now (k : Nat) (s : State) : (s.focus k).now = s.now := by
  rcases s.focus_cases k with ⟨-, he⟩ | ⟨p, -, he⟩ <;> rw [he]

/-- Settles O52: a turn of the `Inst` in focus keeps its history legal and takes time forward (`step_keepsHistory`),
which puts the histories of the others further into the past (`Inst.HistoryOk.mono`); a change of focus changes none. -/
theorem stepKeepsHistories : Obligations.StepKeepsHistories := by
  unfold Obligations.StepKeepsHistories
  intro s t hi h hs
  by_cases hf : ∃ k, s.nextTurn = .focus k
  · obtain ⟨k, hk⟩ := hf
    obtain rfl : s.dropTurn.focus k = t := by simpa [step, hk] using hs
    rw [State.focus_now]
    exact State.All.focus (s := s.dropTurn) h k
  · have hf : ∀ k, s.nextTurn ≠ .focus k := fun k hk => hf ⟨k, hk⟩
    have hk := step_keepsHistory hi.1 h.1 hf hs
    refine ⟨hk.history, fun p hp => (h.2 p ?_).mono hk.now_le⟩
    rwa [← (step_turnsInto hf hs).peers]

end Sys2Proof.Machine
end

section
/-! PROOFS. The host's events while an operation runs (R59), and the change of focus (R60). -/

namespace Sys2Proof.Machine

/-! ### Requests during an operation -/

section
variable {s t u : State}

/-- The operation that runs, what it has done on the bus, and the others are as they were. -/
structure State.SameOperation (s t : State) : Prop where
  hist : t.inst.hist = s.inst.hist
  seq : t.inst.seq = s.inst.seq
  life : t.inst.life = s.inst.life
  lock : t.inst.lock = s.inst.lock
  ctx : t.inst.ctx = s.inst.ctx
  cur : t.inst.cur = s.inst.cur
  dly : t.inst.dly = s.inst.dly
  fsm : t.inst.fsm = s.inst.fsm
  portLatch : t.inst.portLatch = s.inst.portLatch
  lcd : t.inst.lcd = s.inst.lcd
  now : t.now = s.now
  peers : t.peers = s.peers

theorem State.refuse_sameOperation (row : RefusalRow) (s : State) : s.SameOperation (s.refuse row) := by
  constructor <;> rfl

/-- R258 F2: an ATTACH is accepted in DETACHED alone. -/
theorem issueAttach_sameOperation (h : s.inst.life ≠ .detached) (addr : Word7) :
    s.SameOperation (issueAttach addr s) := by
  rw [issueAttach, if_pos h]
  exact s.refuse_sameOperation _

/-- R250: a WRITE is refused, completes at once, or waits. -/
theorem issueWrite_sameOperation (len : Word7) (s : State) : s.SameOperation (issueWrite len s) := by
  rcases issueWrite_cases len s with ⟨row, he⟩ | ⟨-, -, he | ⟨-, -, he⟩⟩ <;> rw [he]
  · exact s.refuse_sameOperation row
  · constructor <;> rfl
  · constructor <;> rfl

/-- R258 F6: a DETACH is accepted in READY alone. -/
theorem issueDetach_sameOperation (h : s.inst.life ≠ .ready) : s.SameOperation (issueDetach s) := by
  rw [issueDetach, if_pos h]
  exact s.refuse_sameOperation _

theorem resetEvent_sameOperation (s : State) : s.SameOperation s.resetEvent := by
  rcases resetEvent_cases s with ⟨-, he⟩ | ⟨-, he⟩ <;> rw [he]
  · constructor <;> rfl
  · exact s.refuse_sameOperation _

/-- The request lines and the draws are no part of the operation. -/
theorem State.SameOperation.of_same_instances (h : u.SameOperation t) (hi : u.inst = s.inst) (hn : u.now = s.now)
    (hp : u.peers = s.peers) : s.SameOperation t := by
  obtain ⟨i, ps, port, now, env⟩ := u
  subst hi hn hp
  exact { h with }

theorem hostTurn_sameOperation {e : HostEvent} (h : s.inst.life.operation ≠ none) (ht : hostTurn e s = .next t) :
    s.SameOperation t := by
  have hdetached : s.inst.life ≠ .detached := fun hl => h (by rw [hl]; rfl)
  have hready : s.inst.life ≠ .ready := fun hl => h (by rw [hl]; rfl)
  rcases hostTurn_cases ht with ⟨r, -, ht⟩ | ⟨-, rfl⟩ | ⟨-, rfl⟩ | ⟨-, rfl⟩
  · refine State.SameOperation.of_same_instances (u := { s with port := r }) ?_ rfl rfl rfl
    rcases ht with rfl | ⟨a, rfl⟩ | ⟨len, rfl⟩ | rfl | rfl
    · constructor <;> rfl
    · exact issueAttach_sameOperation (s := { s with port := r }) hdetached a
    · exact issueWrite_sameOperation len _
    · exact issueDetach_sameOperation (s := { s with port := r }) hready
    · exact State.refuse_sameOperation _ _
  · exact s.refuse_sameOperation _
  · exact s.refuse_sameOperation _
  · exact resetEvent_sameOperation s

end

/-- Settles O47: in an operation an ATTACH and a DETACH are refused, and a WRITE touches waiters and results alone
(`hostTurn_sameOperation`). -/
theorem requestsDoNotDisturbAnOperation : Obligations.RequestsDoNotDisturbAnOperation := by
  unfold Obligations.RequestsDoNotDisturbAnOperation
  intro s t e he hop hs
  have ht : hostTurn e s.dropTurn = .next t := by
    rcases step_cases hs with ⟨_, hn, -⟩ | ⟨_, hn, -⟩ | ⟨e', hn, -, ht⟩ | ⟨_, hn, -⟩ | ⟨whole, hn, -⟩
    · simp [he] at hn
    · simp [he] at hn
    · obtain rfl : e = e' := by simpa [he] using hn
      exact ht
    · simp [he] at hn
    · cases whole <;> simp [he] at hn
  have h := (hostTurn_sameOperation (s := s.dropTurn) hop ht).of_same_instances (s := s) rfl rfl rfl
  exact ⟨h.hist, h.seq, h.life, h.lock, h.ctx, h.cur, h.dly, h.fsm, h.portLatch, h.lcd, h.now, h.peers⟩

/-! ### The change of focus -/

/-- An exchange with the k-th of a list keeps all elements. -/
theorem exchange_perm {α : Type} {l : List α} {k : Nat} {b : α} (h : l[k]? = some b) (a : α) :
    (b :: l.set k a).Perm (a :: l) := by
  induction l generalizing k with
  | nil => simp at h
  | cons x l ih =>
    cases k with
    | zero =>
      obtain rfl : x = b := by simpa using h
      exact .swap a x l
    | succ k =>
      have hk : l[k]? = some b := by simpa using h
      exact (List.Perm.swap x b _).trans (((ih hk).cons x).trans (.swap a x l))

theorem State.focus_of_some {s : State} {k : Nat} {p : Inst} (h : s.peers[k]? = some p) :
    s.focus k = { s with inst := p, peers := s.peers.set k s.inst } := by
  simp [State.focus, h]

theorem State.focus_of_none {s : State} {k : Nat} (h : s.peers[k]? = none) : s.focus k = s := by
  simp [State.focus, h]

/-- Settles O49: the k-th of the others and the one in focus change places (`State.focus_of_some`), and where there is
no k-th nothing changes (`State.focus_of_none`). -/
theorem focusChangesNoInstance : Obligations.FocusChangesNoInstance := by
  unfold Obligations.FocusChangesNoInstance
  intro s t k hk hs
  obtain rfl : s.dropTurn.focus k = t := by simpa [step, hk] using hs
  cases hp : s.peers[k]? with
  | none =>
    rw [State.focus_of_none (s := s.dropTurn) hp]
    exact ⟨.refl _, rfl, rfl, fun _ hn => absurd hn (Option.some_ne_none _).symm, fun _ => rfl⟩
  | some p =>
    rw [State.focus_of_some (s := s.dropTurn) hp]
    exact ⟨exchange_perm hp s.inst, rfl, rfl, by rintro _ ⟨⟩; exact ⟨rfl, rfl⟩,
      fun hn => absurd hn (Option.some_ne_none _)⟩

end Sys2Proof.Machine
end

section
/-! PROOFS. The LCD reference state (R65 to R70): what a run of micro-operations does to `lcd` and `trail`. A sequence
under way has no effect yet (`lcdRun_underWay`), so each of the sequences of R65 to R69 has its effect at its end. -/

namespace Sys2Proof.Machine

/-! ### Sequences under way -/

/-- `lcd` and `trail` after these micro-operations, each completed with success (`runMicros_lcdRun`). -/
def lcdRun (ms : List MicroOp) (p : Lcd × List MicroOp) : Lcd × List MicroOp :=
  ms.foldl (fun p m => lcdAfter m p.1 p.2) p

theorem lcdRun_append (a b : List MicroOp) (p : Lcd × List MicroOp) : lcdRun (a ++ b) p = lcdRun b (lcdRun a p) :=
  List.foldl_append

/-- A run that goes on, from a point where no sequence is under way. -/
theorem runMicros_lcdRun {c : Ctx} {ms : List MicroOp} {s t : State} {lcd : Lcd} {trail : List MicroOp}
    (h : runMicros c ms s = .ok t) (hs : s.inst.trail = []) (he : lcdRun ms (s.inst.lcd, []) = (lcd, trail)) :
    t.inst.lcd = lcd ∧ t.inst.trail = trail := by
  have hp := runMicros_lcd h
  rw [hs] at hp
  exact Prod.mk.inj (hp.trans he)

/-- These micro-operations begin one of the sequences of R65 to R69, and are none of them. -/
structure UnderWay (t : List MicroOp) : Prop where
  begins : beginsSeq t = true
  not_init : t ≠ initProg
  not_clear : t ≠ clearSeq
  not_home : t ≠ homeSeq
  not_row1 : t ≠ row1Seq
  not_data : t ≠ dataSeq t

theorem beginsSeq_iff {t : List MicroOp} :
    beginsSeq t = true ↔ t <+: initProg ∨ t <+: clearSeq ∨ t <+: homeSeq ∨ t <+: row1Seq ∨ t <+: dataSeq t := by
  simp [beginsSeq, List.isPrefixOf_iff_prefix, or_assoc]

/-- A sequence under way has no effect yet. -/
theorem lcdAfter_underWay {trail : List MicroOp} {m : MicroOp} (h : UnderWay (trail ++ [m])) (lcd : Lcd) :
    lcdAfter m lcd trail = (lcd, trail ++ [m]) := by
  simp only [lcdAfter, if_neg h.not_init, if_neg h.not_clear, if_neg h.not_home, if_neg h.not_row1,
    if_neg h.not_data, if_pos h.begins]

/-- By induction along what is to come: a sequence stays under way as long as each of its beginnings is. -/
theorem lcdRun_underWay_append {trail ms : List MicroOp} (h : ∀ t, t ≠ [] → t <+: trail ++ ms → UnderWay t)
    (lcd : Lcd) : lcdRun ms (lcd, trail) = (lcd, trail ++ ms) := by
  induction ms generalizing trail with
  | nil => rw [List.append_nil]; rfl
  | cons m ms ih =>
    have hassoc : trail ++ m :: ms = (trail ++ [m]) ++ ms := by rw [List.append_assoc]; rfl
    rw [hassoc] at h ⊢
    have hm := h (trail ++ [m]) (by simp) (List.prefix_append _ _)
    exact (congrArg (lcdRun ms) (lcdAfter_underWay hm lcd)).trans (ih h)

theorem lcdRun_underWay (ms : List MicroOp) (h : ∀ t, t ≠ [] → t <+: ms → UnderWay t) (lcd : Lcd) :
    lcdRun ms (lcd, []) = (lcd, ms) :=
  lcdRun_underWay_append (trail := []) h lcd

/-- A beginning of a sequence, by its first micro-operation. -/
theorem cons_of_prefix_cons {t l : List MicroOp} {m : MicroOp} (hne : t ≠ []) (h : t <+: m :: l) :
    ∃ t', t = m :: t' := by
  cases t with
  | nil => exact absurd rfl hne
  | cons a t => exact ⟨t, by rw [(List.cons_prefix_cons.1 h).1]⟩

/-! ### INIT_PROG -/

/-- INIT_PROG but for its last wait is under way, since no other sequence begins with a wait. -/
theorem initProg_underWay {t : List MicroOp} (hne : t ≠ []) (h : t <+: initProg.dropLast) : UnderWay t := by
  have hlen : t.length ≤ 56 := h.length_le
  obtain ⟨t', rfl⟩ := cons_of_prefix_cons (m := .wait tPower) hne h
  have htx : ∀ (v : Nibble) (rs en : Bool) (l : List MicroOp), MicroOp.wait tPower :: t' ≠ .tx v rs en :: l := by simp
  exact {
    begins := beginsSeq_iff.2 (.inl (h.trans initProg.dropLast_prefix))
    not_init := fun he => by
      rw [he] at hlen
      exact absurd hlen (by decide)
    not_clear := htx _ _ _ _
    not_home := htx _ _ _ _
    not_row1 := htx _ _ _ _
    not_data := htx _ _ _ _ }

/-- R65. -/
theorem lcdRun_init (lcd : Lcd) : lcdRun initProg (lcd, []) = (.known .init, []) := by
  have hrun := lcdRun_underWay initProg.dropLast (fun t => initProg_underWay) lcd
  have he : initProg = initProg.dropLast ++ [.wait tCmd] := rfl
  rw [he, lcdRun_append, hrun]
  simp only [lcdRun, List.foldl_cons, List.foldl_nil, lcdAfter, ← he, if_true]

/-! ### Commands -/

/-- A command of R66 to R68 but for its wait is under way: it begins with RS = 0, and is shorter than each of them. -/
theorem command_underWay {l t : List MicroOp} (hl : l = clearSeq ∨ l = homeSeq ∨ l = row1Seq) (hne : t ≠ [])
    (h : t <+: l.dropLast) : UnderWay t := by
  have hlen : t.length ≤ 8 := by
    have := h.length_le
    rcases hl with rfl | rfl | rfl <;> exact this
  have hshort : ∀ l' : List MicroOp, l'.length = 9 → t ≠ l' := by
    rintro l' h9 rfl
    omega
  obtain ⟨v, t', rfl⟩ : ∃ v t', t = .tx v false true :: t' := by
    rcases hl with rfl | rfl | rfl
    · exact ⟨_, cons_of_prefix_cons hne h⟩
    · exact ⟨_, cons_of_prefix_cons hne h⟩
    · exact ⟨_, cons_of_prefix_cons hne h⟩
  exact {
    begins := by
      have hp := h.trans l.dropLast_prefix
      rw [beginsSeq_iff]
      rcases hl with rfl | rfl | rfl
      · exact .inr (.inl hp)
      · exact .inr (.inr (.inl hp))
      · exact .inr (.inr (.inr (.inl hp)))
    not_init := by simp [initProg]
    not_clear := hshort _ rfl
    not_home := hshort _ rfl
    not_row1 := hshort _ rfl
    not_data := by simp [dataSeq, byteProg, nibProg] }

/-- A command of R66 to R68 with its wait: what its last micro-operation does. -/
theorem lcdRun_command {l : List MicroOp} {n : Nat} (hl : l = clearSeq ∨ l = homeSeq ∨ l = row1Seq)
    (he : l = l.dropLast ++ [.wait n]) (lcd : Lcd) :
    lcdRun l (lcd, []) = lcdAfter (.wait n) lcd l.dropLast := by
  have hrun := lcdRun_underWay l.dropLast (fun t => command_underWay hl) lcd
  rw [he, lcdRun_append, ← he, hrun]
  rfl

/-- R66. -/
theorem lcdRun_clear (lcd : Lcd) : lcdRun clearSeq (lcd, []) = (lcd.cleared, []) := by
  have he : clearSeq.dropLast ++ [.wait tClear] = clearSeq := rfl
  have hi : clearSeq ≠ initProg := by decide
  rw [lcdRun_command (.inl rfl) he.symm]
  simp only [lcdAfter, he, if_neg hi, if_true]

/-- R67. -/
theorem lcdRun_home (lcd : Lcd) : lcdRun homeSeq (lcd, []) = (lcd.homed, []) := by
  have he : homeSeq.dropLast ++ [.wait tHome] = homeSeq := rfl
  have hi : homeSeq ≠ initProg := by decide
  have hc : homeSeq ≠ clearSeq := by decide
  rw [lcdRun_command (.inr (.inl rfl)) he.symm]
  simp only [lcdAfter, he, if_neg hi, if_neg hc, if_true]

/-- R68. -/
theorem lcdRun_row1 (lcd : Lcd) : lcdRun row1Seq (lcd, []) = (lcd.atRow1, []) := by
  have he : row1Seq.dropLast ++ [.wait tRow1] = row1Seq := rfl
  have hi : row1Seq ≠ initProg := by decide
  have hc : row1Seq ≠ clearSeq := by decide
  have hh : row1Seq ≠ homeSeq := by decide
  rw [lcdRun_command (.inr (.inr rfl)) he.symm]
  simp only [lcdAfter, he, if_neg hi, if_neg hc, if_neg hh, if_true]

/-! ### Data bytes -/

/-- The byte of R69 is read back from its micro-operations (R84). -/
@[simp] theorem trailByte_byteProg (b : Byte) (rs : Bool) : trailByte (byteProg b rs) = b := append_nibbles b

/-- Every beginning of a data byte is a beginning of the one that its own nibbles name. -/
theorem prefix_dataSeq {b : Byte} {t : List MicroOp} (h : t <+: byteProg b true) : t <+: dataSeq t := by
  have hlen : t.length ≤ 8 := h.length_le
  rw [List.prefix_iff_eq_take.1 h]
  generalize t.length = n at hlen
  have hn : n = 0 ∨ n = 1 ∨ n = 2 ∨ n = 3 ∨ n = 4 ∨ n = 5 ∨ n = 6 ∨ n = 7 ∨ n = 8 := by omega
  rcases hn with rfl | rfl | rfl | rfl | rfl | rfl | rfl | rfl | rfl <;>
    simp [dataSeq, trailByte, byteProg, nibProg, MicroOp.nibble]

/-- A data byte but for its last hold is under way: no other sequence begins with RS = 1. -/
theorem data_underWay {b : Byte} {t : List MicroOp} (hne : t ≠ []) (h : t <+: (byteProg b true).dropLast) :
    UnderWay t := by
  have hlen : t.length ≤ 7 := h.length_le
  have hd := prefix_dataSeq (h.trans (List.dropLast_prefix _))
  obtain ⟨t', rfl⟩ := cons_of_prefix_cons hne h
  exact {
    begins := beginsSeq_iff.2 (.inr (.inr (.inr (.inr hd))))
    not_init := by simp [initProg]
    not_clear := by simp [clearSeq, byteProg, nibProg]
    not_home := by simp [homeSeq, byteProg, nibProg]
    not_row1 := by simp [row1Seq, byteProg, nibProg]
    not_data := fun he => by
      have h8 := congrArg List.length he
      rw [dataSeq, byteProg_length] at h8
      omega }

/-- R69. -/
theorem lcdRun_data (b : Byte) (lcd : Lcd) : lcdRun (byteProg b true) (lcd, []) = (lcd.wrote b, []) := by
  have hrun := lcdRun_underWay (byteProg b true).dropLast (fun t => data_underWay) lcd
  have he : byteProg b true = (byteProg b true).dropLast ++ [.wait tNibHold] := rfl
  have hi : byteProg b true ≠ initProg := by simp [byteProg, nibProg, initProg]
  have hc : byteProg b true ≠ clearSeq := by simp [byteProg, nibProg, clearSeq]
  have hh : byteProg b true ≠ homeSeq := by simp [byteProg, nibProg, homeSeq]
  have hr : byteProg b true ≠ row1Seq := by simp [byteProg, nibProg, row1Seq]
  have hd : byteProg b true = dataSeq (byteProg b true) := by rw [dataSeq, trailByte_byteProg]
  rw [he, lcdRun_append, hrun]
  simp only [lcdRun, List.foldl_cons, List.foldl_nil, lcdAfter, ← he, if_neg hi, if_neg hc, if_neg hh, if_neg hr,
    if_pos hd, trailByte_byteProg]

/-! ### Sequences that no rule covers -/

/-- R70: a transaction with RS = 0 whose nibble begins no command loses the LCD. -/
theorem lcdAfter_rawTx {v : Nibble} (h0 : v ≠ 0x0) (hC : v ≠ 0xC) (en : Bool) (lcd : Lcd) :
    lcdAfter (.tx v false en) lcd [] = (.unknown, []) := by
  have hbegins : beginsSeq [.tx v false en] ≠ true := by
    have hfirst : ∀ {m : MicroOp} {l : List MicroOp}, [.tx v false en] <+: m :: l → m = .tx v false en :=
      fun h => (List.cons_prefix_cons.1 h).1.symm
    rw [ne_eq, beginsSeq_iff]
    rintro (h | h | h | h | h)
    · exact MicroOp.noConfusion (hfirst h)
    · exact h0 (MicroOp.tx.inj (hfirst h)).1.symm
    · exact h0 (MicroOp.tx.inj (hfirst h)).1.symm
    · exact hC (MicroOp.tx.inj (hfirst h)).1.symm
    · exact Bool.noConfusion (MicroOp.tx.inj (hfirst h)).2.1
  simp [lcdAfter, initProg, clearSeq, homeSeq, row1Seq, dataSeq, byteProg, nibProg, hbegins]

/-- A wait between sequences does nothing, but for the one that INIT_PROG begins with. -/
theorem lcdAfter_wait {n : Nat} (hn : n ≠ tPower) (lcd : Lcd) : lcdAfter (.wait n) lcd [] = (lcd, []) := by
  simp [lcdAfter, beginsSeq, initProg, clearSeq, homeSeq, row1Seq, dataSeq, byteProg, nibProg, hn]

/-- R70: a raw nibble by itself. -/
theorem lcdRun_rawNib {v : Nibble} (h0 : v ≠ 0x0) (hC : v ≠ 0xC) (lcd : Lcd) :
    lcdRun (nibProg v false) (lcd, []) = (.unknown, []) := by
  have hen : tEnHold ≠ tPower := by decide
  have hnib : tNibHold ≠ tPower := by decide
  simp only [lcdRun, nibProg, List.foldl_cons, List.foldl_nil, lcdAfter_rawTx h0 hC, lcdAfter_wait hen,
    lcdAfter_wait hnib]

/-- R70: the Clear of DETACH_PROG is under way at its end, since no wait follows it. -/
theorem lcdRun_detach (lcd : Lcd) : lcdRun detachProg (lcd, []) = (lcd, detachProg) :=
  lcdRun_underWay clearSeq.dropLast (fun _ => command_underWay (.inl rfl)) lcd

/-- R70: a DETACH that ends with a sequence under way loses the LCD. -/
theorem settle_lcd_of_detaching {s : State} (hl : s.inst.life = .detaching) (ha : s.inst.atEnd = true)
    (ht : s.inst.trail ≠ []) : s.settle.inst.lcd = .unknown := by
  obtain ⟨m, ms, hm⟩ := List.exists_cons_of_ne_nil ht
  simp [State.settle, ha, Inst.complete, hl, hm, lcdAtEnd]

/-! ### The statements -/

/-- Settles O29: INIT_PROG is under way up to its last wait (`lcdRun_init`). -/
theorem initMakesTheLcdKnown : Obligations.InitMakesTheLcdKnown := by
  unfold Obligations.InitMakesTheLcdKnown
  intro c s t hs h
  exact (runMicros_lcdRun h hs (lcdRun_init _)).symm

/-- Settles O30: each command is under way up to its wait (`lcdRun_clear`, `lcdRun_home`, `lcdRun_row1`). -/
theorem commandsMoveTheLcd : Obligations.CommandsMoveTheLcd := by
  unfold Obligations.CommandsMoveTheLcd
  intro c s t r hs hr
  have hclear := lcdRun_clear s.inst.lcd
  have hhome := lcdRun_home s.inst.lcd
  have hrow1 := lcdRun_row1 s.inst.lcd
  rw [hr] at hclear hhome hrow1
  exact ⟨fun h => runMicros_lcdRun (ms := clearSeq) h hs (hr ▸ hclear),
    fun h => runMicros_lcdRun (ms := homeSeq) h hs (hr ▸ hhome),
    fun h => runMicros_lcdRun (ms := row1Seq) h hs (hr ▸ hrow1)⟩

/-- Settles O31: a data byte is under way up to its last hold (`lcdRun_data`), and writes the cell at the cursor. -/
theorem dataWritesTheCell : Obligations.DataWritesTheCell := by
  unfold Obligations.DataWritesTheCell
  intro c s t b r hs hr h
  obtain ⟨hlcd, htrail⟩ := runMicros_lcdRun h hs (lcdRun_data b _)
  rw [hr] at hlcd
  exact ⟨htrail, fun hcol => by rw [hlcd, Lcd.wrote, dif_pos hcol],
    fun hcol => by rw [hlcd, Lcd.wrote, dif_neg (by omega)]⟩

/-- Settles O33: a raw nibble begins no sequence (`lcdRun_rawNib`), and the Clear of DETACH is under way at its end
(`lcdRun_detach`, `settle_lcd_of_detaching`). -/
theorem otherSequencesLoseTheLcd : Obligations.OtherSequencesLoseTheLcd := by
  unfold Obligations.OtherSequencesLoseTheLcd
  refine ⟨fun c s t v hs h0 hC h => (runMicros_lcdRun h hs (lcdRun_rawNib h0 hC _)).1, ?_⟩
  intro c s t hs hl hq h
  obtain ⟨-, htrail⟩ := runMicros_lcdRun h hs (lcdRun_detach _)
  obtain ⟨new, hr⟩ := runMicros_records h
  have hseq : t.inst.seq = some ⟨detachProg, 8⟩ := by simp [hr.seq, hq]
  exact settle_lcd_of_detaching (hr.frame.life.trans hl) (by simp [Inst.atEnd_of_seq hseq]) (by rw [htrail]; nofun)

end Sys2Proof.Machine
end

section
/-! PROOFS. What WB_PROG shows (R210 to R216): the bytes sent so far stand in their cells. -/

namespace Sys2Proof.Machine

/-- What a cell shows: a byte's code, or BLANK where no byte is. -/
def LcdCell.ofByte : Option Byte → LcdCell
  | some b => .code b
  | none => .blank

/-- The cells show these bytes, 16 to a row, and nothing else. -/
def LcdRec.Cells (r : LcdRec) (bytes : List Byte) : Prop :=
  ∀ (i : Fin 2) (j : Fin 16), r.cells[i][j] = LcdCell.ofByte bytes[16 * i.val + j.val]?

/-- The LCD shows these bytes, and the cursor stands after the last of them, at column 16 where a row is full. -/
structure LcdRec.Shows (r : LcdRec) (cfg : LcdCfg) (bytes : List Byte) : Prop where
  cfg : r.cfg = cfg
  cells : r.Cells bytes
  row : r.row.val = if bytes.length ≤ 16 then 0 else 1
  col : r.col.val = if bytes.length ≤ 16 then bytes.length else bytes.length - 16

/-- A blank LCD with its cursor at (0, 0) shows no bytes. -/
theorem LcdRec.shows_nil {r : LcdRec} (hc : r.cells = blankCells) (hrow : r.row = 0) (hcol : r.col = 0) :
    r.Shows r.cfg [] where
  cfg := rfl
  cells := by simp [LcdRec.Cells, hc, blankCells, LcdCell.ofByte]
  row := by simp [hrow]
  col := by simp [hcol]

/-- A cell after a write to one of the cells. -/
theorem getElem_setCell {cells : Vector (Vector LcdCell 16) 2} {row col i j : Nat} (hrow : row < 2) (hcol : col < 16)
    (hi : i < 2) (hj : j < 16) (x : LcdCell) :
    (cells.set row (cells[row].set col x hcol) hrow)[i][j] = if row = i ∧ col = j then x else cells[i][j] := by
  by_cases h : row = i
  · subst h
    simp [Vector.getElem_set]
  · simp [h]

/-- A list with one element more, by index. -/
theorem getElem?_append_singleton {α : Type} (l : List α) (a : α) (n : Nat) :
    (l ++ [a])[n]? = if n = l.length then some a else l[n]? := by
  split
  · simp [*]
  · rename_i hne
    rcases Nat.lt_or_gt_of_ne hne with h | h
    · exact List.getElem?_append_left h
    · rw [List.getElem?_eq_none (by simp; omega), List.getElem?_eq_none (Nat.le_of_lt h)]

/-- R69: a byte written at the cell that its index names. -/
theorem Lcd.wrote_shows {r : LcdRec} {cfg : LcdCfg} {bytes : List Byte} (hcfg : r.cfg = cfg) (hcells : r.Cells bytes)
    (hrow : r.row.val = bytes.length / 16) (hcol : r.col.val = bytes.length % 16) (b : Byte) :
    ∃ r', (Lcd.known r).wrote b = .known r' ∧ r'.Shows cfg (bytes ++ [b]) := by
  have hlt : r.col.val < 16 := by omega
  refine ⟨_, by rw [Lcd.wrote, dif_pos hlt], ?_⟩
  constructor
  case cfg => exact hcfg
  case cells =>
    intro i j
    have hcell : (r.row.val = i.val ∧ r.col.val = j.val) ↔ 16 * i.val + j.val = bytes.length := by omega
    simp only [Fin.getElem_fin, getElem_setCell, hcell, getElem?_append_singleton]
    split
    · rfl
    · exact hcells i j
  case row => simp only [List.length_append, List.length_singleton]; split <;> omega
  case col => simp only [List.length_append, List.length_singleton]; split <;> omega

/-- R215, R216: the next data byte, behind the row change where its index is 16. -/
theorem lcdRun_nextData {r : LcdRec} {cfg : LcdCfg} {bytes : List Byte} (h : r.Shows cfg bytes)
    (hlt : bytes.length < 32) (b : Byte) :
    ∃ r', lcdRun ((if bytes.length = 16 then row1Seq else []) ++ byteProg b true) (.known r, []) = (.known r', [])
      ∧ r'.Shows cfg (bytes ++ [b]) := by
  rw [lcdRun_append]
  split
  · rename_i h16
    obtain ⟨r', he, hr'⟩ := Lcd.wrote_shows (r := { r with row := 1, col := 0 }) h.cfg h.cells (by simp [h16])
      (by simp [h16]) b
    exact ⟨r', by rw [lcdRun_row1, Lcd.atRow1, lcdRun_data, he], hr'⟩
  · rename_i h16
    have hrow := h.row
    have hcol := h.col
    obtain ⟨r', he, hr'⟩ := Lcd.wrote_shows h.cfg h.cells (by split at hrow <;> omega) (by split at hcol <;> omega) b
    exact ⟨r', by rw [← he, ← lcdRun_data]; rfl, hr'⟩

/-- By induction along the bytes still to come. -/
theorem lcdRun_wbData {cfg : LcdCfg} (bs : List Byte) {r : LcdRec} {bytes : List Byte} (h : r.Shows cfg bytes)
    (hle : bytes.length + bs.length ≤ 32) :
    ∃ r', lcdRun (wbData bytes.length bs) (.known r, []) = (.known r', []) ∧ r'.Shows cfg (bytes ++ bs) := by
  induction bs generalizing r bytes with
  | nil => exact ⟨r, rfl, by simpa using h⟩
  | cons b bs ih =>
    rw [List.length_cons] at hle
    obtain ⟨r₁, he₁, h₁⟩ := lcdRun_nextData h (by omega) b
    obtain ⟨r₂, he₂, h₂⟩ := ih h₁ (by rw [List.length_append, List.length_singleton]; omega)
    refine ⟨r₂, ?_, by simpa using h₂⟩
    rw [List.length_append, List.length_singleton] at he₂
    rw [wbData, lcdRun_append]
    exact (congrArg (lcdRun _) he₁).trans he₂

/-- R210: WB_PROG is Clear, Home, and the data bytes. -/
theorem wbProg_of_legal {len : Word7} {buf : List Byte} (h : LegalWrite len buf) :
    wbProg len buf = clearSeq ++ homeSeq ++ wbData 0 buf := by
  obtain ⟨h1, -, hlen⟩ := h
  have hne : len ≠ 0 := by rintro rfl; exact absurd h1 (by decide)
  rw [wbProg, if_neg hne, ← hlen, List.take_length]
  simp only [clearSeq, homeSeq, List.append_assoc]

/-- R66, R67, R69: WB_PROG on a known LCD. -/
theorem lcdRun_wbProg {len : Word7} {buf : List Byte} (h : LegalWrite len buf) (r : LcdRec) :
    ∃ r', lcdRun (wbProg len buf) (.known r, []) = (.known r', []) ∧ r'.Shows r.cfg buf := by
  have hlen : ([] : List Byte).length + buf.length ≤ 32 := by
    obtain ⟨-, -, hlen⟩ := h
    simpa [hlen] using effLen_le len
  obtain ⟨r', he, hr'⟩ := lcdRun_wbData buf
    (LcdRec.shows_nil (r := { r with cells := blankCells, row := 0, col := 0 }) rfl rfl rfl) hlen
  refine ⟨r', ?_, hr'⟩
  rw [wbProg_of_legal h, lcdRun_append, lcdRun_append, lcdRun_clear, lcdRun_home]
  exact he

/-- Settles O32: by induction along the buffer the bytes sent so far stand in their cells (`lcdRun_wbData`). -/
theorem writeShowsItsBytes : Obligations.WriteShowsItsBytes := by
  unfold Obligations.WriteShowsItsBytes
  intro c s t r len buf hs hr hlegal h
  obtain ⟨r', he, hr'⟩ := lcdRun_wbProg hlegal r
  obtain ⟨hlcd, htrail⟩ := runMicros_lcdRun h hs (hr ▸ he)
  exact ⟨htrail, r', hlcd, hr'.cfg, hr'.cells, hr'.row, hr'.col⟩

end Sys2Proof.Machine
end

section
/-! PROOFS. The four formats (R80, R85, R93, R95): a decoder reads from a word exactly the well-formed instruction of
its format whose word it is (`decode_eq_ok_iff`), so that decoding and encoding undo each other. -/

namespace Sys2Proof

/-! ### Words by their fields -/

theorem append_inj_iff {m n : Nat} {a a' : BitVec m} {b b' : BitVec n} : a ++ b = a' ++ b' ↔ a = a' ∧ b = b' := by
  refine ⟨fun h => ⟨?_, ?_⟩, fun ⟨ha, hb⟩ => by rw [ha, hb]⟩
  · simpa [BitVec.extractLsb'_append_eq_left] using congrArg (BitVec.extractLsb' n m) h
  · simpa [BitVec.extractLsb'_append_eq_right] using congrArg (BitVec.extractLsb' 0 n) h

theorem bit_inj_iff {a b : Bool} : bit a = bit b ↔ a = b := by
  revert a b; decide

theorem bit_and (a b : Bool) : bit a &&& bit b = bit (a && b) := by
  revert a b; decide

/-- A descriptor under a mask, field by field (R93). -/
theorem req16_and (len addr len' addr' : Word7) (op op' : BitVec 2) :
    req16 len addr op &&& req16 len' addr' op' = req16 (len &&& len') (addr &&& addr') (op &&& op') :=
  BitVec.and_append.trans (congrArg (· ++ (op &&& op')) BitVec.and_append)

theorem req16_inj_iff {len addr len' addr' : Word7} {op op' : BitVec 2} :
    req16 len addr op = req16 len' addr' op' ↔ len = len' ∧ addr = addr' ∧ op = op' :=
  append_inj_iff.trans ((and_congr_left' append_inj_iff).trans and_assoc)

/-- A descriptor is its fields put together (R93). -/
theorem req16_fields (w : Word16) : req16 (w.extractLsb' 9 7) (w.extractLsb' 2 7) (w.extractLsb' 0 2) = w := by
  have hhi : w.extractLsb' 9 7 ++ w.extractLsb' 2 7 = w.extractLsb' 2 14 :=
    BitVec.extractLsb'_append_extractLsb'_eq_extractLsb' rfl
  rw [req16, hhi]
  exact (BitVec.extractLsb'_append_extractLsb'_eq_extractLsb' rfl).trans BitVec.extractLsb'_eq_self

@[simp] theorem op_req16 (len addr : Word7) (op : BitVec 2) : (req16 len addr op).extractLsb' 0 2 = op :=
  BitVec.extractLsb'_append_eq_right

@[simp] theorem addr_req16 (len addr : Word7) (op : BitVec 2) : (req16 len addr op).extractLsb' 2 7 = addr := by
  rw [req16, BitVec.extractLsb'_append_eq_of_le (by decide)]
  exact BitVec.extractLsb'_append_eq_right

@[simp] theorem len_req16 (len addr : Word7) (op : BitVec 2) : (req16 len addr op).extractLsb' 9 7 = len := by
  rw [req16, BitVec.extractLsb'_append_eq_of_le (by decide)]
  exact BitVec.extractLsb'_append_eq_left

/-- A port word is its fields put together (R80). -/
theorem port8_fields : ∀ w : Byte,
    port8 (w.extractLsb' 4 4) (w.getLsbD 3) (w.getLsbD 2) (w.getLsbD 1) (w.getLsbD 0) = w := by
  decide

/-- A command or data word is its fields put together (R85). -/
theorem lcd9_fields (w : BitVec 9) : lcd9 (w.getLsbD 8) (w.extractLsb' 0 8) = w := by
  have hbit : bit (w.getLsbD 8) = w.extractLsb' 8 1 := by
    ext n hn
    obtain rfl : n = 0 := by omega
    simp [bit]
  rw [lcd9, hbit]
  exact (BitVec.extractLsb'_append_extractLsb'_eq_extractLsb' rfl).trans BitVec.extractLsb'_eq_self

/-! ### The masks -/

/-- The mask 0xFFFF looks at every field. -/
theorem req16_mask_all {len addr : Word7} {op op' : BitVec 2} :
    req16 len addr op &&& 0xFFFF = req16 0 0 op' ↔ len = 0 ∧ addr = 0 ∧ op = op' := by
  have hmask : (0xFFFF : Word16) = req16 (BitVec.allOnes 7) (BitVec.allOnes 7) (BitVec.allOnes 2) := rfl
  rw [hmask, req16_and, req16_inj_iff]
  simp only [BitVec.and_allOnes]

/-- The mask 0xFE03 looks at `LEN7` and `OP`. -/
theorem req16_mask_attach {len addr : Word7} {op : BitVec 2} :
    req16 len addr op &&& 0xFE03 = 0x0001 ↔ len = 0 ∧ op = 1 := by
  have hmask : (0xFE03 : Word16) = req16 (BitVec.allOnes 7) 0 (BitVec.allOnes 2) := rfl
  have hmatch : (0x0001 : Word16) = req16 0 0 1 := rfl
  rw [hmask, hmatch, req16_and, req16_inj_iff]
  simp only [BitVec.and_allOnes, BitVec.ofNat_eq_ofNat, BitVec.and_zero, true_and]

/-- The mask 0x01FF looks at `ADDR7` and `OP`. -/
theorem req16_mask_write {len addr : Word7} {op : BitVec 2} :
    req16 len addr op &&& 0x01FF = 0x0002 ↔ addr = 0 ∧ op = 2 := by
  have hmask : (0x01FF : Word16) = req16 0 (BitVec.allOnes 7) (BitVec.allOnes 2) := rfl
  have hmatch : (0x0002 : Word16) = req16 0 0 2 := rfl
  rw [hmask, hmatch, req16_and, req16_inj_iff]
  simp only [BitVec.and_allOnes, BitVec.ofNat_eq_ofNat, BitVec.and_zero, true_and]

/-- The mask 0x100 looks at RS. -/
theorem lcd9_mask_rs {rs : Bool} {b : Byte} : lcd9 rs b &&& 0x100 = 0x100 ↔ rs = true := by
  have hmask : (0x100 : BitVec 9) = bit true ++ 0#8 := rfl
  rw [hmask, lcd9, BitVec.and_append, append_inj_iff, bit_and, bit_inj_iff]
  simp only [Bool.and_true, BitVec.and_zero, and_true]

/-! ### The decoders -/

/-- R95: the rows of the requests, by the fields of the descriptor. -/
theorem decodeReq16_req16 {len addr : Word7} {op : BitVec 2} {i : Instr} :
    decodeReq16 (req16 len addr op) = .ok i ↔
      (op = 0 ∧ addr = 0 ∧ len = 0 ∧ i = .idle)
        ∨ (op = 1 ∧ len = 0 ∧ i = .attach addr)
        ∨ (op = 2 ∧ addr = 0 ∧ len.toNat ≤ 64 ∧ i = .write len)
        ∨ (op = 3 ∧ addr = 0 ∧ len = 0 ∧ i = .detach) := by
  have hidle : (0x0000 : Word16) = req16 0 0 0 := rfl
  have hdetach : (0x0003 : Word16) = req16 0 0 3 := rfl
  rw [decodeReq16, hidle, hdetach]
  simp only [req16_mask_all, req16_mask_attach, req16_mask_write, len_req16, addr_req16, Config.maxReqLen]
  constructor
  · intro h
    split at h
    next hf =>
      obtain ⟨rfl, rfl, rfl⟩ := hf
      exact .inl ⟨rfl, rfl, rfl, by cases h; rfl⟩
    split at h
    next hf =>
      obtain ⟨rfl, rfl⟩ := hf
      exact .inr (.inl ⟨rfl, rfl, by cases h; rfl⟩)
    split at h
    next hf =>
      obtain ⟨rfl, rfl⟩ := hf
      split at h <;> cases h
      exact .inr (.inr (.inl ⟨rfl, rfl, ‹_›, rfl⟩))
    split at h <;> cases h
    next hf =>
      obtain ⟨rfl, rfl, rfl⟩ := hf
      exact .inr (.inr (.inr ⟨rfl, rfl, rfl, rfl⟩))
  · rintro (⟨rfl, rfl, rfl, rfl⟩ | ⟨rfl, rfl, rfl⟩ | ⟨rfl, rfl, h, rfl⟩ | ⟨rfl, rfl, rfl, rfl⟩)
    · rfl
    · simp
    · simp [h]
    · rfl

theorem decodeReq16_eq_ok_iff {w : Word16} {i : Instr} :
    decodeReq16 w = .ok i ↔ i.format = .req16 ∧ i.wellFormed = true ∧ encode i = w.toNat := by
  constructor
  · intro h
    rw [← req16_fields w] at h ⊢
    rcases decodeReq16_req16.1 h with ⟨ho, ha, hl, rfl⟩ | ⟨ho, hl, rfl⟩ | ⟨ho, ha, h64, rfl⟩ | ⟨ho, ha, hl, rfl⟩
    · exact ⟨rfl, rfl, by rw [ho, ha, hl]; rfl⟩
    · exact ⟨rfl, rfl, by rw [ho, hl]; rfl⟩
    · exact ⟨rfl, decide_eq_true h64, by rw [ho, ha]; rfl⟩
    · exact ⟨rfl, rfl, by rw [ho, ha, hl]; rfl⟩
  · rintro ⟨hf, hwf, he⟩
    cases i <;> simp only [Instr.format, reduceCtorEq] at hf <;> obtain rfl := BitVec.eq_of_toNat_eq he
      <;> rw [decodeReq16_req16]
    case idle => exact .inl ⟨rfl, rfl, rfl, rfl⟩
    case attach addr => exact .inr (.inl ⟨rfl, rfl, rfl⟩)
    case write len => exact .inr (.inr (.inl ⟨rfl, rfl, of_decide_eq_true hwf, rfl⟩))
    case detach => exact .inr (.inr (.inr ⟨rfl, rfl, rfl, rfl⟩))

/-- R83: with RW clear a port word is the instruction that its EN bit tells. -/
theorem decodePort8_port8 (d : Nibble) (bl en rs : Bool) :
    decodePort8 (port8 d bl en false rs) = .ok (if en then .portEnHi d bl rs else .portEnLo d bl rs) := by
  rw [← Machine.image_eq_port8]
  exact Machine.decodePort8_image d rs bl en

/-- The mask 0x06 looks at RW, and no row has it set. -/
theorem port8_rw_mask : ∀ (d : Nibble) (bl en rs : Bool),
    port8 d bl en true rs &&& 0x06 ≠ 0x04 ∧ port8 d bl en true rs &&& 0x06 ≠ 0x00 := by
  decide

theorem decodePort8_eq_ok_iff {w : Byte} {i : Instr} :
    decodePort8 w = .ok i ↔ i.format = .port8 ∧ i.wellFormed = true ∧ encode i = w.toNat := by
  constructor
  · rw [← port8_fields w]
    generalize w.extractLsb' 4 4 = d, w.getLsbD 3 = bl, w.getLsbD 2 = en, w.getLsbD 1 = rw', w.getLsbD 0 = rs
    intro h
    cases rw' with
    | true =>
      obtain ⟨hhi, hlo⟩ := port8_rw_mask d bl en rs
      rw [decodePort8, if_neg hhi, if_neg hlo] at h
      cases h
    | false =>
      rw [decodePort8_port8] at h
      cases h
      cases en <;> exact ⟨rfl, rfl, rfl⟩
  · rintro ⟨hf, -, he⟩
    cases i <;> simp only [Instr.format, reduceCtorEq] at hf <;> obtain rfl := BitVec.eq_of_toNat_eq he
    case portEnHi d bl rs => exact decodePort8_port8 d bl true rs
    case portEnLo d bl rs => exact decodePort8_port8 d bl false rs

theorem decodeNib5_eq_ok_iff {w : BitVec 5} {i : Instr} :
    decodeNib5 w = .ok i ↔ i.format = .nib5 ∧ i.wellFormed = true ∧ encode i = w.toNat := by
  have hmask : w &&& 0x1F = w := BitVec.and_allOnes
  constructor
  · intro h
    rw [decodeNib5, hmask] at h
    split at h
    next hw => cases h; exact ⟨rfl, rfl, by rw [hw]; rfl⟩
    split at h <;> cases h
    next hw => exact ⟨rfl, rfl, by rw [hw]; rfl⟩
  · rintro ⟨hf, -, he⟩
    cases i <;> simp only [Instr.format, reduceCtorEq] at hf <;> obtain rfl := BitVec.eq_of_toNat_eq he <;> rfl

/-- R89: with RS set a word is its data byte. -/
theorem decodeLcd9_data (b : Byte) : decodeLcd9 (lcd9 true b) = .ok (.data b) := by
  rw [decodeLcd9, if_pos (lcd9_mask_rs.2 rfl), lcd9, BitVec.extractLsb'_append_eq_right]

theorem decodeLcd9_eq_ok_iff {w : BitVec 9} {i : Instr} :
    decodeLcd9 w = .ok i ↔ i.format = .lcd9 ∧ i.wellFormed = true ∧ encode i = w.toNat := by
  have hmask : w &&& 0x1FF = w := BitVec.and_allOnes
  constructor
  · intro h
    rw [decodeLcd9, hmask] at h
    split at h
    next hw =>
      rw [← lcd9_fields w] at hw
      cases h
      exact ⟨rfl, rfl, by rw [encode, ← lcd9_mask_rs.1 hw, lcd9_fields]⟩
    iterate 5
      split at h
      next hw => cases h; exact ⟨rfl, rfl, by rw [hw]; rfl⟩
    split at h <;> cases h
    next hw => exact ⟨rfl, rfl, by rw [hw]; rfl⟩
  · rintro ⟨hf, -, he⟩
    cases i <;> simp only [Instr.format, reduceCtorEq] at hf <;> obtain rfl := BitVec.eq_of_toNat_eq he
    case data b => exact decodeLcd9_data b
    all_goals rfl

/-- A word fits the width of its format. -/
theorem encode_lt (i : Instr) : encode i < 2 ^ i.format.width := by
  cases i <;> exact BitVec.isLt _

/-- A number decodes in a format exactly to the well-formed instruction of that format whose word it is. -/
theorem decode_eq_ok_iff {f : Format} {w : Nat} {i : Instr} :
    decode f w = .ok i ↔ i.format = f ∧ i.wellFormed = true ∧ encode i = w := by
  by_cases hw : w < 2 ^ f.width
  · have hword : ∀ n, w < 2 ^ n → (BitVec.ofNat n w).toNat = w := fun n h => by
      rw [BitVec.toNat_ofNat, Nat.mod_eq_of_lt h]
    unfold decode
    rw [if_pos hw]
    cases f
    case req16 => exact decodeReq16_eq_ok_iff.trans (by rw [hword 16 hw])
    case port8 => exact decodePort8_eq_ok_iff.trans (by rw [hword 8 hw])
    case nib5 => exact decodeNib5_eq_ok_iff.trans (by rw [hword 5 hw])
    case lcd9 => exact decodeLcd9_eq_ok_iff.trans (by rw [hword 9 hw])
  · unfold decode
    rw [if_neg hw]
    refine ⟨nofun, ?_⟩
    rintro ⟨rfl, -, rfl⟩
    exact absurd (encode_lt i) hw

/-! ### The statements -/

/-- Settles O2: the decoder of a format reads every well-formed instruction of it from its word
(`decode_eq_ok_iff`). -/
theorem encodeThenDecode : Obligations.EncodeThenDecode := by
  unfold Obligations.EncodeThenDecode
  exact fun i hwf => decode_eq_ok_iff.2 ⟨rfl, hwf, rfl⟩

/-- Settles O3: and it reads no other word as that instruction (`decode_eq_ok_iff`). -/
theorem decodeThenEncode : Obligations.DecodeThenEncode := by
  unfold Obligations.DecodeThenEncode
  exact fun f w i => decode_eq_ok_iff.1

/-- Settles O1: each word is the word of its instruction, which decodes to it (`encodeThenDecode`). -/
theorem tableWordsDecode : Obligations.TableWordsDecode := by
  unfold Obligations.TableWordsDecode
  have h := encodeThenDecode
  exact ⟨h .idle rfl, h (.attach 0x27) rfl, h (.write 20) rfl, h .detach rfl, h (.portEnHi 0x3 true false) rfl,
    h (.portEnLo 0x4 true true) rfl, h .initNib3 rfl, h .initNib2 rfl, h .functionSet rfl, h .displayControl rfl,
    h .clear rfl, h .entryModeSet rfl, h .home rfl, h .setDdramRow1 rfl, h (.data 0x41) rfl⟩

end Sys2Proof

namespace Sys2Proof.Machine

/-! ### Port images and result words -/

/-- R81, as a number. -/
theorem image_toNat : ∀ (v : Nibble) (rs bl en : Bool),
    (image v rs bl en).toNat = v.toNat * 16 + en.toNat * 4 + bl.toNat * 8 + rs.toNat := by
  decide

/-- Settles O5: the number by its fields (`image_toNat`), and RW is 0 (`image_rw`). -/
theorem imageFormula : Obligations.ImageFormula := by
  unfold Obligations.ImageFormula
  exact fun v rs bl en => ⟨image_toNat v rs bl en, image_rw v rs bl en⟩

/-- R94: the word of success is its count in the high byte. -/
theorem Result.word_ok : ∀ len : Word7, (Result.ok len).word = BitVec.ofNat 16 (256 * len.toNat) := by
  decide

/-- Settles O6: the word of success by its count (`Result.word_ok`), the error words as they stand, and all of them
legal (`Result.legal_ok`, `Result.legal_transportError`). -/
theorem resultWords : Obligations.ResultWords := by
  unfold Obligations.ResultWords
  exact ⟨Result.word_ok, rfl, rfl, rfl, rfl, rfl, rfl, fun _ => Result.legal_ok, Result.legal_transportError⟩

/-! ### Requests -/

/-- A step on a request is the host's turn with it. -/
theorem step_request {s : State} {r : Request} (hr : s.inst.refused = false)
    (ht : s.nextTurn = .host (.request r)) : step s = hostTurn (.request r) s.dropTurn := by
  rw [step, ht]
  exact ifMeaningful_of_not_refused hr _

/-- Settles O8: the descriptor is decoded and its instruction runs (`step_request`). -/
theorem stepRunsTheRequest : Obligations.StepRunsTheRequest := by
  unfold Obligations.StepRunsTheRequest
  intro s r i hr ht hi
  rw [step_request hr ht, hostTurn, hi]

/-- Settles O4: a descriptor is its fields, by which it matches its row (`decodeReq16_req16`); where it matches none,
the host's turn marks the run (`step_request`). -/
theorem requestRows : Obligations.RequestRows := by
  unfold Obligations.RequestRows
  refine ⟨fun w i => ?_, fun s r e hr ht he => ?_⟩
  · rw [← decodeReq16_req16, req16_fields]
  · rw [step_request hr ht, hostTurn, he]
    rfl

end Sys2Proof.Machine
end

section
/-! PROOFS. Micro-programs by their instructions (R92): the three programs are parts that fit, a program of such parts
is read part after part from its start (`wholeFrom_flat`), and an instruction taken whole is its single turns
(`core_run_singles`). -/

namespace Sys2Proof.Machine

/-! ### Parts -/

@[simp] theorem flat_cons (p : Part) (ps : List Part) : flat (p :: ps) = p.micros ++ flat ps := List.flatMap_cons

@[simp] theorem flat_append (ps ps' : List Part) : flat (ps ++ ps') = flat ps ++ flat ps' := List.flatMap_append

/-- The parts that send these bytes. -/
def dataParts (bs : List Byte) : List Part := bs.map fun b => .instr (.data b)

/-- A byte may stand anywhere. -/
theorem Part.fits_lcd9 {i : Instr} (h : i.format = .lcd9) (ps : List Part) : (Part.instr i).fits ps = true := by
  rcases ps with _ | ⟨_ | _, ps⟩ <;> simp [Part.fits, h]

theorem partsOk_of_append {before ps : List Part} (h : partsOk (before ++ ps) = true) : partsOk ps = true := by
  induction before with
  | nil => exact h
  | cons p before ih => exact ih (Bool.and_eq_true_iff.1 h).2

theorem partsOk_dataParts_append (bs : List Byte) (ps : List Part) : partsOk (dataParts bs ++ ps) = partsOk ps := by
  induction bs with
  | nil => rfl
  | cons b bs ih =>
    rw [← ih]
    simp [dataParts, partsOk, Part.fits_lcd9 (i := .data b) rfl]

/-! ### The three programs -/

theorem wbData_append (n : Nat) (bs bs' : List Byte) :
    wbData n (bs ++ bs') = wbData n bs ++ wbData (n + bs.length) bs' := by
  induction bs generalizing n with
  | nil => rfl
  | cons b bs ih =>
    have hn : n + (bs.length + 1) = n + 1 + bs.length := by omega
    simp only [List.cons_append, List.length_cons, wbData, ih, hn, List.append_assoc]

/-- Within a row the data part is its bytes (R215). -/
theorem wbData_within_row {n : Nat} {bs : List Byte} (h : n + bs.length ≤ 16 ∨ 16 < n) :
    wbData n bs = flat (dataParts bs) := by
  induction bs generalizing n with
  | nil => rfl
  | cons b bs ih =>
    rw [List.length_cons] at h
    have hn : n ≠ 16 := by omega
    rw [wbData, if_neg hn, ih (by omega)]
    rfl

/-- The second row begins with the row change (R216). -/
theorem wbData_second_row (b : Byte) (bs : List Byte) :
    wbData 16 (b :: bs) = flat ([.instr .setDdramRow1, .wait 1_000_000] ++ dataParts (b :: bs)) := by
  rw [wbData, if_pos rfl, wbData_within_row (.inr (by decide))]
  rfl

/-- The data part of a write: the first row, the row change where there is a second (R216), and the second row. -/
theorem wbData_eq_flat (buf : List Byte) :
    wbData 0 buf = flat (dataParts (buf.take 16)
      ++ (if buf.length ≤ 16 then [] else [.instr .setDdramRow1, .wait 1_000_000]) ++ dataParts (buf.drop 16)) := by
  by_cases hlen : buf.length ≤ 16
  · rw [if_pos hlen, List.take_of_length_le hlen, List.drop_eq_nil_of_le hlen, wbData_within_row (.inl (by omega))]
    simp [dataParts]
  · have hfirst : (buf.take 16).length = 16 := by rw [List.length_take]; omega
    obtain ⟨b, bs, hsecond⟩ : ∃ b bs, buf.drop 16 = b :: bs :=
      List.exists_cons_of_length_pos (by rw [List.length_drop]; omega)
    have hsplit : wbData 0 buf = wbData 0 (buf.take 16 ++ buf.drop 16) := by rw [List.take_append_drop]
    rw [hsplit, wbData_append, hfirst, hsecond, wbData_within_row (.inl (by omega)), wbData_second_row, if_neg hlen]
    simp only [flat_append, List.append_assoc]

/-- R210: WB_PROG by its instructions. -/
theorem wbProg_eq_flat {len : Word7} {buf : List Byte} (h : LegalWrite len buf) :
    wbProg len buf = flat (writeParts buf) := by
  rw [wbProg_of_legal h, wbData_eq_flat]
  simp only [writeParts, flat_append, List.append_assoc]
  rfl

theorem partsOk_writeParts (buf : List Byte) : partsOk (writeParts buf) = true := by
  have hsecond : partsOk (dataParts (buf.drop 16)) = true := by
    simpa [partsOk] using partsOk_dataParts_append (buf.drop 16) []
  have hrow1 : partsOk ((if buf.length ≤ 16 then [] else [.instr .setDdramRow1, .wait 1_000_000])
      ++ dataParts (buf.drop 16)) = true := by
    split <;> exact hsecond
  rw [writeParts, List.append_assoc, List.append_assoc]
  exact (partsOk_dataParts_append _ _).trans hrow1

/-- Settles O60: INIT_PROG and DETACH_PROG as they are written, and WB_PROG row by row (`wbProg_eq_flat`). -/
theorem programsAreTheirInstructions : Obligations.ProgramsAreTheirInstructions := by
  unfold Obligations.ProgramsAreTheirInstructions
  exact ⟨⟨rfl, rfl⟩, fun len buf h => ⟨wbProg_eq_flat h, partsOk_writeParts buf⟩, rfl, rfl⟩

/-! ### What begins a program -/

theorem expand_lcd9 {i : Instr} (h : i.format = .lcd9) :
    ∃ b rs, expand i = byteProg b rs ∧ decodeLcd9 (lcd9 rs b) = .ok i := by
  cases i <;> simp only [Instr.format, reduceCtorEq] at h
  case data b => exact ⟨b, true, rfl, decodeLcd9_data b⟩
  all_goals exact ⟨_, false, rfl, rfl⟩

theorem expand_nib5 {i : Instr} (h : i.format = .nib5) :
    ∃ v rs, expand i = nibProg v rs ∧ decodeNib5 (nib5 rs v) = .ok i := by
  cases i <;> simp only [Instr.format, reduceCtorEq] at h
  all_goals exact ⟨_, false, rfl, rfl⟩

/-- A NIB5 or LCD9 instruction begins with a transaction. -/
theorem expand_cons {i : Instr} (h : i.format = .lcd9 ∨ i.format = .nib5) :
    ∃ v rs en ms, expand i = .tx v rs en :: ms := by
  rcases h with h | h
  · obtain ⟨b, rs, he, -⟩ := expand_lcd9 h
    exact ⟨_, _, _, _, he⟩
  · obtain ⟨v, rs, he, -⟩ := expand_nib5 h
    exact ⟨_, _, _, _, he⟩

theorem wholeAt_byteProg (b : Byte) (rs : Bool) (l : List MicroOp) :
    wholeAt (byteProg b rs ++ l) = (decodeLcd9 (lcd9 rs b)).toOption := by
  simp only [wholeAt, byteProg, List.append_assoc, nibAt_nibProg, if_true, append_nibbles]

theorem wholeAt_nibProg {l : List MicroOp} (hl : nibAt l = none) (v : Nibble) (rs : Bool) :
    wholeAt (nibProg v rs ++ l) = (decodeNib5 (nib5 rs v)).toOption := by
  simp only [wholeAt, nibAt_nibProg, hl]

/-- An instruction fits where it is a byte, or a raw nibble with no nibble write behind it (R92). -/
theorem Part.format_of_fits {i : Instr} {ps : List Part} (h : (Part.instr i).fits ps = true) :
    i.format = .lcd9 ∨ i.format = .nib5 ∧ nibAt (flat ps) = none := by
  rcases ps with _ | ⟨j | t, ps⟩ <;> simp only [Part.fits, Bool.or_eq_true, beq_iff_eq] at h
  case nil => exact h.imp_right fun h => ⟨h, rfl⟩
  case cons.instr => exact .inl h
  case cons.wait => exact h.imp_right fun h => ⟨h, rfl⟩

/-- Where an instruction fits, it is what begins the program. -/
theorem wholeAt_flat {i : Instr} {ps : List Part} (h : (Part.instr i).fits ps = true) :
    wholeAt (expand i ++ flat ps) = some i := by
  rcases Part.format_of_fits h with hf | ⟨hf, hps⟩
  · obtain ⟨b, rs, he, hd⟩ := expand_lcd9 hf
    rw [he, wholeAt_byteProg, hd]
    rfl
  · obtain ⟨v, rs, he, hd⟩ := expand_nib5 hf
    rw [he, wholeAt_nibProg hps, hd]
    rfl

/-- What begins a program of parts that fit is as long as its first part. -/
theorem wholeLen_flat {p : Part} {ps : List Part} (h : p.fits ps = true) :
    wholeLen (p.micros ++ flat ps) = p.micros.length := by
  cases p with
  | instr i =>
    have hw : wholeAt ((Part.instr i).micros ++ flat ps) = some i := wholeAt_flat h
    rw [wholeLen, hw]
    rfl
  | wait t => rfl

theorem Part.micros_cons {p : Part} {ps : List Part} (h : p.fits ps = true) : ∃ m ms, p.micros = m :: ms := by
  cases p with
  | instr i =>
    obtain ⟨v, rs, en, ms, he⟩ := expand_cons ((Part.format_of_fits h).imp_right And.left)
    exact ⟨_, ms, he⟩
  | wait t => exact ⟨_, [], rfl⟩

/-! ### Reading a program from its start -/

/-- Behind what is skipped the reading goes on as from a start. -/
theorem wholeFrom_skip (ms l : List MicroOp) (n : Nat) :
    wholeFrom ms.length (ms ++ l) (ms.length + n) = wholeFrom 0 l n := by
  induction ms with
  | nil => rw [List.length_nil, Nat.zero_add, List.nil_append]
  | cons m ms ih => rw [List.length_cons, Nat.add_right_comm, List.cons_append, wholeFrom, ih]

/-- Inside what is skipped no instruction begins. -/
theorem wholeFrom_inside {skip n : Nat} (h : n < skip) (l : List MicroOp) : wholeFrom skip l n = none := by
  induction l generalizing skip n with
  | nil => simp only [wholeFrom]
  | cons m l ih =>
    obtain ⟨skip, rfl⟩ : ∃ k, skip = k + 1 := ⟨skip - 1, by omega⟩
    cases n with
    | zero => rfl
    | succ n => exact ih (Nat.lt_of_succ_lt_succ h)

/-- The reading of a first part: past its first micro-operation, the rest of it is skipped. -/
theorem wholeFrom_part {p : Part} {ps : List Part} {m : MicroOp} {ms : List MicroOp} (h : p.fits ps = true)
    (hp : p.micros = m :: ms) (n : Nat) :
    wholeFrom 0 (p.micros ++ flat ps) (n + 1) = wholeFrom ms.length (ms ++ flat ps) n := by
  have hlen := wholeLen_flat h
  rw [hp, List.cons_append] at hlen ⊢
  rw [wholeFrom, hlen]
  rfl

/-- By induction along the parts before: the reading comes to the beginning of each part that fits. -/
theorem wholeFrom_flat {before ps : List Part} (h : partsOk (before ++ ps) = true) (n : Nat) :
    wholeFrom 0 (flat (before ++ ps)) ((flat before).length + n) = wholeFrom 0 (flat ps) n := by
  induction before with
  | nil => exact congrArg (wholeFrom 0 (flat ps)) (Nat.zero_add n)
  | cons p before ih =>
    rw [List.cons_append, partsOk, Bool.and_eq_true] at h
    obtain ⟨hfit, hok⟩ := h
    obtain ⟨m, ms, hp⟩ := Part.micros_cons hfit
    have hn : (flat (p :: before)).length + n = ms.length + ((flat before).length + n) + 1 := by
      rw [flat_cons, hp, List.length_append, List.length_cons]
      omega
    rw [hn, List.cons_append, flat_cons, wholeFrom_part hfit hp, wholeFrom_skip, ih hok]

/-- The instruction that begins a program of parts, and none inside it. -/
theorem wholeFrom_instr {i : Instr} {ps : List Part} {k : Nat} (h : (Part.instr i).fits ps = true)
    (hk : k < (expand i).length) :
    wholeFrom 0 (flat (.instr i :: ps)) k = if k = 0 then some i else none := by
  obtain ⟨m, ms, hp⟩ := Part.micros_cons h
  have he : expand i = m :: ms := hp
  cases k with
  | zero =>
    rw [if_pos rfl, ← wholeAt_flat h, he, flat_cons, hp]
    rfl
  | succ k =>
    rw [he, List.length_cons] at hk
    rw [if_neg (Nat.succ_ne_zero k), flat_cons, wholeFrom_part h hp, wholeFrom_inside (by omega)]

/-- Where no instruction begins, a whole turn is a single one (assumption log 11). -/
theorem fetchAt_inside {bl : Bool} {q : Seq} (h : wholeFrom 0 q.prog q.upc = none) :
    fetchAt true bl q = fetchAt false bl q := by
  simp only [fetchAt, h, if_true, Bool.false_eq_true, if_false]

/-- Settles O10: the reading comes to the part at `upc` (`wholeFrom_flat`), and finds its instruction at its beginning
and none inside it (`wholeFrom_instr`). -/
theorem stepRunsTheWholeInstruction : Obligations.StepRunsTheWholeInstruction := by
  unfold Obligations.StepRunsTheWholeInstruction
  intro s c i before behind k hc hok hq
  have hfit : (Part.instr i).fits behind = true := (Bool.and_eq_true_iff.1 (partsOk_of_append hok)).1
  have hread := wholeFrom_flat hok
  refine ⟨?_, fun hpos hlt => ?_⟩
  · rintro rfl hr ht
    obtain ⟨v, rs, en, ms, he⟩ := expand_cons ((Part.format_of_fits hfit).imp_right And.left)
    have hd : (flat (before ++ .instr i :: behind)).drop ((flat before).length + 0) =
        .tx v rs en :: (ms ++ flat behind) := by
      rw [flat_append, Nat.add_zero, List.drop_left, flat_cons]
      exact congrArg (· ++ flat behind) he
    have hw := (hread 0).trans (wholeFrom_instr hfit (k := 0) (by rw [he]; exact Nat.succ_pos _))
    have hf : fetch true s.dropTurn = .instr i :=
      (fetch_running true (s := s.dropTurn) hc hq).trans (fetchAt_whole hd hw)
    rw [step, ht]
    exact (ifMeaningful_of_not_refused hr _).trans (blockTurn_instr hf)
  · have hw := (hread k).trans ((wholeFrom_instr hfit hlt).trans (if_neg (by omega)))
    rw [blockTurn, fetch_running true hc hq, fetchAt_inside hw, ← fetch_running false hc hq, blockTurn]

/-! ### Single turns -/

theorem run_succ {M : Host.Core} {s u : M.State} (n : Nat) (h : M.step s = .next u) : M.run (n + 1) s = M.run n u := by
  rw [Host.Core.run, h]

theorem core_run_succ {s u : State} (n : Nat) (h : step s = .next u) : core.run (n + 1) s = core.run n u :=
  run_succ (M := core) n h

theorem step_withTurns_single {s : State} (hr : s.inst.refused = false) (ts : List Turn) :
    step (s.withTurns (.single :: ts)) = blockTurn false (s.withTurns ts) :=
  ifMeaningful_of_not_refused (s := s.withTurns (.single :: ts)) hr _

theorem State.settle_withTurns (ts : List Turn) (s : State) : (s.withTurns ts).settle = s.settle.withTurns ts := by
  unfold State.settle
  rw [apply_ite (State.withTurns ts)]
  rfl

theorem State.withTurns_self {ts : List Turn} {s : State} (h : s.env.turns.script = ts) : s.withTurns ts = s := by
  subst h
  rfl

/-- A micro-operation does not look at the turns to come. -/
theorem runMicro_withTurns {c : Ctx} {m : MicroOp} {s u : State} (h : runMicro c m s = .ok u) (ts : List Turn) :
    runMicro c m (s.withTurns ts) = .ok (u.withTurns ts) := by
  cases m with
  | tx v rs en =>
    rcases runMicro_ok h with ⟨_, _, _, hm, hs, rfl⟩ | ⟨_, hm, -⟩ <;> cases hm
    have hs' : (s.withTurns ts).nextTx.status = .ok := hs
    rw [runMicro, txMicro, hs']
    rfl
  | wait n =>
    cases h
    rw [runMicro, waitWhole_eq, waitWhole_eq]
    rfl

section
variable {s u : State} {c : Ctx} {q : Seq} {m : MicroOp} {rest : List MicroOp}

theorem runMicro_idle (h : runMicro c m s = .ok u) (hd : s.inst.dly = .idle) : u.inst.dly = .idle := by
  rcases runMicro_ok h with ⟨v, rs, en, rfl, -, rfl⟩ | ⟨n, rfl, rfl⟩
  · exact hd
  · rw [waitWhole_eq]
    rfl

/-- Where a transaction stands at `upc`, nothing is to be settled. -/
theorem settle_of_tx {v : Nibble} {rs en : Bool} (hq : s.inst.seq = some q)
    (hp : q.prog.drop q.upc = .tx v rs en :: rest) : s.settle = s := by
  have hw : s.inst.waitHere = none := by simp [Inst.waitHere, hq, getElem?_upc_of_drop hp]
  rcases s.settle_cases with ⟨ha, -⟩ | ⟨-, t, -, ht, -⟩ | ⟨-, -, he⟩
  · rw [Inst.not_atEnd_of_drop hq hp] at ha
    cases ha
  · rw [hw] at ht
    cases ht
  · exact he

/-- Where a wait stands at `upc`, it begins (R131). -/
theorem settle_of_wait {n : Nat} (hq : s.inst.seq = some q) (hd : s.inst.dly = .idle)
    (hp : q.prog.drop q.upc = .wait n :: rest) : s.settle = startWait n s := by
  have hw : s.inst.waitHere = some n := Inst.waitHere_eq_some.2 ⟨q, hq, getElem?_upc_of_drop hp⟩
  rcases s.settle_cases with ⟨ha, -⟩ | ⟨-, t, -, ht, he⟩ | ⟨-, hn | hn, -⟩
  · rw [Inst.not_atEnd_of_drop hq hp] at ha
    cases ha
  · rw [hw] at ht
    cases ht
    exact he
  · rw [hw] at hn
    cases hn
  · exact absurd hd hn

/-- From a settled state a single turn is the run of the micro-operation at `upc`. -/
theorem blockTurn_settle (hc : s.inst.ctx = some c) (hq : s.inst.seq = some q) (hd : s.inst.dly = .idle)
    (hp : q.prog.drop q.upc = m :: rest) (h : runMicro c m s = .ok u) : blockTurn false s.settle = .next u.settle := by
  cases m with
  | tx v rs en =>
    have hf := (fetch_running false hc hq).trans (fetchAt_single_tx hp)
    rw [settle_of_tx hq hp, blockTurn_instr hf, exec_port hc hq, runMicros_single, h]
    rfl
  | wait n =>
    cases h
    have hf : fetch false (startWait n s) = .wait n := by
      rw [fetch_running false (s := startWait n s) hc hq, fetchAt, hp]
    rw [settle_of_wait hq hd hp, blockTurn, hf]
    rfl

end

/-- By induction along the micro-operations: single turns lead from a settled state to where their run ends. -/
theorem core_run_singles {c : Ctx} {ms rest : List MicroOp} {q : Seq} {s t : State} (hr : s.inst.refused = false)
    (hc : s.inst.ctx = some c) (hq : s.inst.seq = some q) (hd : s.inst.dly = .idle)
    (hp : q.prog.drop q.upc = ms ++ rest) (h : runMicros c ms s = .ok t) (ts : List Turn) :
    core.run ms.length (s.settle.withTurns (List.replicate ms.length .single ++ ts)) =
      .next (t.settle.withTurns ts) := by
  induction ms generalizing s q with
  | nil =>
    cases h
    rfl
  | cons m ms ih =>
    obtain ⟨u, hm, hms⟩ := runMicros_cons_ok h
    obtain ⟨e, hu⟩ := runMicro_records hm
    have hstep : step (s.settle.withTurns (.single :: (List.replicate ms.length .single ++ ts)))
        = .next (u.settle.withTurns (List.replicate ms.length .single ++ ts)) := by
      rw [step_withTurns_single (by simpa using hr), ← State.settle_withTurns, ← State.settle_withTurns]
      exact blockTurn_settle hc hq hd hp (runMicro_withTurns hm _)
    rw [List.length_cons, List.replicate_succ, List.cons_append, core_run_succ _ hstep]
    exact ih (q := ⟨q.prog, q.upc + 1⟩) (hu.frame.refused.trans hr) (hu.frame.ctx.trans hc) (by simp [hu.seq, hq])
      (runMicro_idle hm hd) (drop_succ_of_drop hp) hms

/-- Settles O56: the first micro-operation is a transaction, so the state is settled, and single turns run the rest
(`core_run_singles`). -/
theorem wholeTurnIsItsSingleTurns : Obligations.WholeTurnIsItsSingleTurns := by
  unfold Obligations.WholeTurnIsItsSingleTurns
  intro s t c q i rest turns hr hc hq hd hf hp h
  obtain ⟨v, rs, en, ms, he⟩ := expand_cons hf
  have hs : (s.withTurns turns).settle = s.withTurns turns :=
    settle_of_tx (s := s.withTurns turns) hq (hp.trans (congrArg (· ++ rest) he))
  obtain ⟨new, hrun⟩ := runMicros_records h
  have ht : t.settle.withTurns turns = t.settle :=
    State.withTurns_self (by rw [State.settle_env, hrun.frame.turns]; rfl)
  have hsingles := core_run_singles (s := s.withTurns turns) hr hc hq hd hp h turns
  rw [hs, ht] at hsingles
  exact hsingles

end Sys2Proof.Machine
end

section
/-! PROOFS. Transactions (spec/40_transport.md): a PORT8 instruction whose adapter succeeds (O13). -/

namespace Sys2Proof.Machine

/-- A PORT8 instruction is one transaction of its own image, whatever the backlight of the context (R83, R110). -/
theorem exec_port_txMicro {s : State} {c : Ctx} {q : Seq} (hc : s.inst.ctx = some c) (hq : s.inst.seq = some q)
    (d : Nibble) (bl rs en : Bool) :
    exec (if en then .portEnHi d bl rs else .portEnLo d bl rs) s
      = .next (txMicro c.addr (image d rs bl en) (.tx d rs en) s).finish := by
  cases en
  · exact underOperation_running _ hc hq
  · exact underOperation_running _ hc hq

/-- A transaction whose adapter returns OK goes on, one micro-operation further. -/
theorem txMicro_of_ok {s : State} (hs : s.nextTx.status = .ok) (addr : Word7) (img : Byte) (m : MicroOp) :
    txMicro addr img m s = .ok ((transmit addr img s).mapInst (Inst.advance m)) := by
  rw [txMicro, hs]

/-- What a transaction that succeeds leaves, field by field (R27, R110, R112). -/
theorem transmit_advance_of_ok {s : State} {q : Seq} (hq : s.inst.seq = some q) (hs : s.nextTx.status = .ok)
    (addr : Word7) (img : Byte) (m : MicroOp) :
    (transmit addr img s).mapInst (Inst.advance m) = { s with
      now := s.now + s.txTime 0
      env := { s.env with txs := s.env.txs.tail }
      inst := { s.inst with
        hist := s.inst.hist ++ [.tx s.now (s.now + s.txTime 0) addr img .ok]
        portLatch := .image img
        seq := some ⟨q.prog, q.upc + 1⟩
        fsm := s.inst.fsm.after s.inst.life.operation ((s.inst.cur.map Cur.buf).getD []) m
        lcd := (lcdAfter m s.inst.lcd s.inst.trail).1
        trail := (lcdAfter m s.inst.lcd s.inst.trail).2 } } := by
  simp only [State.mapInst, Inst.advance, transmit, latchAfter, hq, hs, State.txDone_eq, Option.map_some]

/-- Settles O13: the instruction is its transaction (`exec_port_txMicro`), which goes on (`txMicro_of_ok`) to the state
of `transmit_advance_of_ok`; `settle` is what the end of a run adds. -/
theorem transactionSucceeds : Obligations.TransactionSucceeds := by
  unfold Obligations.TransactionSucceeds
  intro s c q d bl rs en hc hq hs
  rw [exec_port_txMicro hc hq, txMicro_of_ok hs, transmit_advance_of_ok hq hs, Ran.finish]

end Sys2Proof.Machine
end

section
/-! PROOFS. The delay generator (spec/41_delay_generator.md): the table of minimums, the cycle-level counter, and the
moment at which a wait begins and ends. -/

namespace Sys2Proof.Machine

/-! ### The minimums -/

/-- Settles O28: a wait of the three programs is a wait of one of them, and each has the table's waits alone. -/
theorem onlyTheMinimumsOccur : Obligations.OnlyTheMinimumsOccur := by
  unfold Obligations.OnlyTheMinimumsOccur
  intro len buf t h
  rcases List.mem_append.1 h with h | hdetach
  · rcases List.mem_append.1 h with hinit | hwrite
    · exact wait_mem_initProg hinit
    · exact wait_mem_wbProg hwrite
  · exact wait_mem_byteProg_minimum (b := cmdClear) hdetach

/-! ### The cycle-level counter -/

@[simp] theorem DownCounter.count_edges (n : Nat) (d : DownCounter) : (d.edges n).count = d.count - n := by
  induction n generalizing d with
  | zero => rfl
  | succ n ih =>
    have hedge : d.edge.count = d.count - 1 := rfl
    rw [DownCounter.edges, ih, hedge]
    omega

/-- R133: the counter has reached 0 from the edge its count names on. -/
theorem DownCounter.done_edges_iff (n : Nat) (d : DownCounter) : (d.edges n).done = true ↔ d.count ≤ n := by
  rw [DownCounter.done, beq_iff_eq, DownCounter.count_edges]
  omega

theorem le_delayCycles (t hz : Nat) : t * hz ≤ delayCycles t hz * 1_000_000_000 := by
  unfold delayCycles
  omega

/-- R133: the load is a ceiling, so one clock period less falls short of the wait. -/
theorem delayCycles_pred_lt {t hz : Nat} (h : 0 < t * hz) : (delayCycles t hz - 1) * 1_000_000_000 < t * hz := by
  unfold delayCycles
  omega

/-- Settles O18: the counter is done from its load on (`DownCounter.done_edges_iff`), and the load is the least number
of clock periods that lasts the wait (`le_delayCycles`, `delayCycles_pred_lt`). -/
theorem delayCounterWaitsLongEnough : Obligations.DelayCounterWaitsLongEnough := by
  unfold Obligations.DelayCounterWaitsLongEnough
  intro t hz n ht hhz
  exact ⟨DownCounter.done_edges_iff n (DownCounter.load t hz), le_delayCycles t hz,
    delayCycles_pred_lt (Nat.mul_pos ht hhz)⟩

/-! ### A wait begins -/

/-- R131: a wait that follows starts at the moment that is settled. -/
theorem settle_startsWait {s : State} {q : Seq} {t : Nat} {rest : List MicroOp} (hq : s.inst.seq = some q)
    (hd : s.inst.dly = .idle) (hp : q.prog.drop q.upc = .wait t :: rest) :
    s.settle.inst.dly = .running t s.settle.now := by
  rw [settle_of_wait hq hd hp]
  rfl

/-! ### A wait ends -/

/-- What the end of a wait leaves, field by field (R27, R130). -/
theorem finishWait_of_running {s : State} {q : Seq} {t tStart : Nat} (hq : s.inst.seq = some q)
    (hd : s.inst.dly = .running t tStart) :
    finishWait s = { s with
      now := max s.now (tStart + t) + s.overAt 0
      env := { s.env with overs := s.env.overs.tail }
      inst := { s.inst with
        dly := .idle
        hist := s.inst.hist ++ [.wait tStart (max s.now (tStart + t) + s.overAt 0) t]
        seq := some ⟨q.prog, q.upc + 1⟩
        fsm := s.inst.fsm.after s.inst.life.operation ((s.inst.cur.map Cur.buf).getD []) (.wait t)
        lcd := (lcdAfter (.wait t) s.inst.lcd s.inst.trail).1
        trail := (lcdAfter (.wait t) s.inst.lcd s.inst.trail).2 } } := by
  have hover : s.overAt 0 = s.nextOver := rfl
  simp only [finishWait, hd, hq, hover, State.waitEnd, Inst.advance, Option.map_some]

/-- Where a wait stands at `upc` and runs, the block's turn is its end, whichever granularity it has (R130). -/
theorem blockTurn_endsWait {whole : Bool} {s : State} {c : Ctx} {q : Seq} {t t' tStart : Nat} {rest : List MicroOp}
    (hc : s.inst.ctx = some c) (hq : s.inst.seq = some q) (hd : s.inst.dly = .running t' tStart)
    (hp : q.prog.drop q.upc = .wait t :: rest) : blockTurn whole s = .next (finishWait s).settle := by
  have hf : fetch whole s = .wait t := by rw [fetch_running whole hc hq, fetchAt, hp]
  have hw : waitTurn t s = finishWait s := by rw [waitTurn, hd]
  rw [blockTurn, hf, ← hw]

theorem step_endsWait {s : State} {c : Ctx} {q : Seq} {t t' tStart : Nat} {rest : List MicroOp}
    (hr : s.inst.refused = false) (hc : s.inst.ctx = some c) (hq : s.inst.seq = some q)
    (ht : s.nextTurn = .single ∨ s.nextTurn = .whole) (hd : s.inst.dly = .running t' tStart)
    (hp : q.prog.drop q.upc = .wait t :: rest) : step s = .next (finishWait s.dropTurn).settle := by
  rcases ht with ht | ht <;>
  · rw [step, ht]
    exact (ifMeaningful_of_not_refused hr _).trans (blockTurn_endsWait (s := s.dropTurn) hc hq hd hp)

/-- Settles O17: a transaction (`transactionSucceeds`) and the end of a wait (`step_endsWait`) both settle, which starts
the wait that follows (`settle_startsWait`). -/
theorem waitBeginsAndEnds : Obligations.WaitBeginsAndEnds := by
  unfold Obligations.WaitBeginsAndEnds
  intro s c q t rest hr hc hq
  refine ⟨fun v rs en ht hd hs hp => ?_, fun t' tStart ht hd hp => ?_, fun tStart ht hd hp => ?_⟩
  · obtain ⟨i, -, rfl, hstep⟩ := stepRunsTheTransaction s c q v rs en (.wait t :: rest) hr ht hc hq hp
    have hrun := transactionSucceeds s.dropTurn c q v c.backlight rs en hc hq hs
    exact ⟨_, hstep.trans hrun, State.settle_now _,
      settle_startsWait (q := ⟨q.prog, q.upc + 1⟩) rfl hd (drop_succ_of_drop hp)⟩
  · have hend := finishWait_of_running (s := s.dropTurn) hq hd
    refine ⟨_, step_endsWait hr hc hq ht hd hp, ?_, ?_⟩ <;> rw [hend]
    · exact State.settle_now _
    · exact settle_startsWait (q := ⟨q.prog, q.upc + 1⟩) rfl rfl (drop_succ_of_drop hp)
  · rw [step_endsWait hr hc hq ht hd hp, finishWait_of_running (s := s.dropTurn) hq hd]
    rfl

end Sys2Proof.Machine
end

section
/-! PROOFS. Nibbles and bytes (spec/42_nibble_command.md). They are made of pulses, a transaction and the hold time after
it; a run of pulses goes on while the adapter succeeds (`runMicros_pulses`), and ends with the first failure
(`runMicros_pulses_fails`). -/

namespace Sys2Proof.Machine

/-- A transaction and the hold time after it (R150). -/
structure Pulse where
  v : Nibble
  rs : Bool
  en : Bool
  hold : Nat

/-- Its transaction, as a micro-operation. -/
def Pulse.tx (p : Pulse) : MicroOp := .tx p.v p.rs p.en

/-- Its micro-operations. -/
def Pulse.micros (p : Pulse) : List MicroOp := [p.tx, .wait p.hold]

/-- The image of the transaction under a context (R157). -/
def Pulse.image (c : Ctx) (p : Pulse) : Byte := Machine.image p.v p.rs c.backlight p.en

/-- The micro-program of pulses in order. -/
def pulseProg (ps : List Pulse) : List MicroOp := ps.flatMap Pulse.micros

/-- The pulses of a nibble: EN high, then EN low (R150). -/
def nibPulses (v : Nibble) (rs : Bool) : List Pulse := [⟨v, rs, true, tEnHold⟩, ⟨v, rs, false, tNibHold⟩]

/-- The pulses of a byte: the high nibble, then the low (R153). -/
def bytePulses (b : Byte) (rs : Bool) : List Pulse := nibPulses (hiNibble b) rs ++ nibPulses (loNibble b) rs

theorem nibProg_eq_pulseProg (v : Nibble) (rs : Bool) : nibProg v rs = pulseProg (nibPulses v rs) := rfl

theorem byteProg_eq_pulseProg (b : Byte) (rs : Bool) : byteProg b rs = pulseProg (bytePulses b rs) := rfl

theorem pulseProg_length (ps : List Pulse) : (pulseProg ps).length = 2 * ps.length := by
  induction ps with
  | nil => rfl
  | cons p ps ih =>
    have hcons : pulseProg (p :: ps) = p.micros ++ pulseProg ps := List.flatMap_cons
    have hp : p.micros.length = 2 := rfl
    rw [hcons, List.length_append, List.length_cons, ih, hp]
    omega

theorem imagesUnder_pulseProg (c : Ctx) (ps : List Pulse) :
    imagesUnder c.backlight (pulseProg ps) = ps.map (Pulse.image c) := by
  induction ps with
  | nil => rfl
  | cons p ps ih => exact congrArg (p.image c :: ·) ih

/-! ### The images of a byte -/

theorem imagesOf_append (es es' : List Event) : imagesOf (es ++ es') = imagesOf es ++ imagesOf es' :=
  List.filterMap_append

/-- The high nibble on the lines is `h` of R158. -/
theorem hiNibble_onLines : ∀ b : Byte, (hiNibble b).setWidth 8 <<< dataShift = b &&& 0xF0 := by decide

/-- The low nibble on the lines is `l` of R158. -/
theorem loNibble_onLines : ∀ b : Byte, (loNibble b).setWidth 8 <<< dataShift = (b &&& 0x0F) <<< 4 := by decide

/-- R158: the four images are those of the pulses. -/
theorem byteImages_eq (b : Byte) (rs : Bool) (c : Ctx) :
    byteImages b rs c.backlight = (bytePulses b rs).map (Pulse.image c) := by
  simp only [byteImages, bytePulses, nibPulses, Pulse.image, image, hiNibble_onLines, loNibble_onLines, pinEn, pinBl,
    pinRs, List.map_cons, List.map_nil, List.cons_append, List.nil_append, List.cons.injEq, and_true]
  simp only [BitVec.ofNat_eq_ofNat, ↓reduceIte, Bool.false_eq_true, BitVec.or_zero]
  refine ⟨?_, ?_, ?_, ?_⟩ <;> ac_rfl

/-! ### A pulse whose transaction succeeds -/

/-- The state after a pulse whose transaction succeeds (`runMicros_pulse`). -/
def State.pulse (c : Ctx) (s : State) (p : Pulse) : State :=
  waitWhole p.hold ((transmit c.addr (p.image c) s).mapInst (Inst.advance p.tx))

/-- The state after pulses in order, whose transactions succeed (`runMicros_pulses`). -/
def State.pulses (c : Ctx) (s : State) (ps : List Pulse) : State := ps.foldl (State.pulse c) s

section
variable (c : Ctx) (s : State) (p : Pulse) (n : Nat)

@[simp] theorem State.txAt_pulse : (s.pulse c p).txAt n = s.txAt (n + 1) := rfl

@[simp] theorem State.txTime_pulse : (s.pulse c p).txTime n = s.txTime (n + 1) := rfl

@[simp] theorem State.overAt_pulse : (s.pulse c p).overAt n = s.overAt (n + 1) := rfl

@[simp] theorem State.pulse_now : (s.pulse c p).now = s.now + s.txTime 0 + p.hold + s.overAt 0 := by
  rw [State.pulse, waitWhole_eq]
  rfl

end

section
variable {c : Ctx} {s : State} {p : Pulse} {ps : List Pulse} {n : Nat}

theorem State.pulse_portLatch (h : (s.txAt 0).status = .ok) : (s.pulse c p).inst.portLatch = .image (p.image c) :=
  congrArg (latchAfter (p.image c)) h

/-- It records its transaction, and its hold time from the end of that (R131). -/
theorem State.pulse_hist (h : (s.txAt 0).status = .ok) :
    (s.pulse c p).inst.hist = s.inst.hist ++
      [.tx s.now (s.now + s.txTime 0) c.addr (p.image c) .ok,
        .wait (s.now + s.txTime 0) (s.now + s.txTime 0 + p.hold + s.overAt 0) p.hold] := by
  have hs : s.nextTx.status = .ok := h
  rw [State.pulse, waitWhole_eq]
  simp only [Inst.advance_hist, State.mapInst_inst, transmit_inst_hist, hs, List.append_assoc]
  rfl

/-- The adapter succeeds for the first pulse, and for those after it. -/
theorem State.adapterOk_succ : s.AdapterOk (n + 1) ↔ (s.txAt 0).status = .ok ∧ (s.pulse c p).AdapterOk n :=
  Nat.forall_lt_succ_left

theorem runMicros_pulse (h : (s.txAt 0).status = .ok) (ms : List MicroOp) :
    runMicros c (p.micros ++ ms) s = runMicros c ms (s.pulse c p) := by
  have hm : runMicro c p.tx s = .ok ((transmit c.addr (p.image c) s).mapInst (Inst.advance p.tx)) := txMicro_of_ok h ..
  simp only [Pulse.micros, List.cons_append, List.nil_append, runMicros, hm]
  rfl

theorem runMicros_pulse_fails {kind : TxKind} (h : (s.txAt 0).status = .err kind) (ms : List MicroOp) :
    runMicros c (p.micros ++ ms) s = .aborted ((transmit c.addr (p.image c) s).mapInst (Inst.abort kind)) := by
  have hm : runMicro c p.tx s = .aborted ((transmit c.addr (p.image c) s).mapInst (Inst.abort kind)) := by
    have hs : s.nextTx.status = .err kind := h
    simp only [Pulse.tx, runMicro, txMicro, hs, Pulse.image]
  simp only [Pulse.micros, List.cons_append, runMicros, hm]

/-! ### Pulses in order -/

theorem State.txAt_pulses : (s.pulses c ps).txAt n = s.txAt (ps.length + n) := by
  induction ps generalizing s with
  | nil => simp [State.pulses]
  | cons p ps ih =>
    rw [List.length_cons, Nat.add_right_comm, ← s.txAt_pulse c p]
    exact ih

theorem runMicros_pulses (h : s.AdapterOk ps.length) (ms : List MicroOp) :
    runMicros c (pulseProg ps ++ ms) s = runMicros c ms (s.pulses c ps) := by
  induction ps generalizing s with
  | nil => rfl
  | cons p ps ih =>
    obtain ⟨h0, hrest⟩ := State.adapterOk_succ (c := c) (p := p).1 h
    have hcons : pulseProg (p :: ps) ++ ms = p.micros ++ (pulseProg ps ++ ms) := List.append_assoc ..
    rw [hcons, runMicros_pulse h0]
    exact ih hrest

/-- With an adapter that succeeds, the program of pulses goes on to its end. -/
theorem runMicros_pulseProg (h : s.AdapterOk ps.length) : runMicros c (pulseProg ps) s = .ok (s.pulses c ps) := by
  simpa using runMicros_pulses (c := c) h []

/-- A transaction that fails is the last entry that its operation records (R273). -/
theorem transmit_abort_hist {kind : TxKind} (h : s.nextTx.status = .err kind) (addr : Word7) (img : Byte) :
    ((transmit addr img s).mapInst (Inst.abort kind)).inst.hist =
      s.inst.hist ++ [.tx s.now s.txDone addr img (.err kind)] := by
  simp [h]

/-- The pulses before the first failure succeed, and the run ends in the abort of the transaction that fails. -/
theorem runMicros_pulses_fails {kind : TxKind} (hok : s.AdapterOk ps.length)
    (hfail : (s.txAt ps.length).status = .err kind) (ms : List MicroOp) :
    runMicros c (pulseProg ps ++ (p.micros ++ ms)) s =
      .aborted ((transmit c.addr (p.image c) (s.pulses c ps)).mapInst (Inst.abort kind)) := by
  rw [runMicros_pulses hok]
  exact runMicros_pulse_fails (by rwa [State.txAt_pulses]) ms

end

end Sys2Proof.Machine
end

section
/-! PROOFS. The NIB5 and LCD9 instructions (spec/42_nibble_command.md): the raw nibbles and the bytes run as their pulses,
and a byte ends with the first transaction that fails. -/

namespace Sys2Proof.Machine

/-- R166, R167: the instructions that write a raw nibble. -/
theorem expand_of_rawNibble {i : Instr} {v : Nibble} (h : (i, v) ∈ [(Instr.initNib3, 0x3), (.initNib2, 0x2)]) :
    i.format = .nib5 ∧ expand i = pulseProg (nibPulses v false) := by
  simp only [List.mem_cons, Prod.mk.injEq, List.not_mem_nil, or_false] at h
  rcases h with ⟨rfl, rfl⟩ | ⟨rfl, rfl⟩ <;> exact ⟨rfl, nibProg_eq_pulseProg ..⟩

/-- R159 to R165: the instructions that send a byte. -/
theorem expand_of_byteOf {i : Instr} {b : Byte} {rs : Bool} (h : byteOf i = some (b, rs)) :
    i.format = .lcd9 ∧ expand i = pulseProg (bytePulses b rs) := by
  cases i <;> cases h <;> exact ⟨rfl, byteProg_eq_pulseProg ..⟩

section
variable {s : State} {c : Ctx} {q : Seq} {i : Instr} {ps : List Pulse}

/-- Under an operation an instruction made of pulses is their run. -/
theorem exec_pulses (hf : i.format = .nib5 ∨ i.format = .lcd9) (he : expand i = pulseProg ps)
    (hc : s.inst.ctx = some c) (hq : s.inst.seq = some q) :
    exec i s = .next (runMicros c (pulseProg ps) s).finish := by
  rw [exec_eq_execProgram hf, execProgram, underOperation_running _ hc hq, he]

/-- With an adapter that succeeds it runs to completion: `upc` stands behind it, and the frame is kept. -/
theorem exec_pulses_completes (hf : i.format = .nib5 ∨ i.format = .lcd9) (he : expand i = pulseProg ps)
    (hc : s.inst.ctx = some c) (hq : s.inst.seq = some q) (hok : s.AdapterOk ps.length) :
    exec i s = .next (s.pulses c ps).settle
      ∧ (s.pulses c ps).inst.seq = some ⟨q.prog, q.upc + 2 * ps.length⟩
      ∧ s.SameButSequencer (s.pulses c ps) := by
  have hrun := runMicros_pulseProg (c := c) hok
  obtain ⟨new, r⟩ := runMicros_records hrun
  exact ⟨by rw [exec_pulses hf he hc hq, hrun, Ran.finish], by rw [r.seq, hq, pulseProg_length]; rfl, r.frame⟩

end

/-- Settles O19: a raw nibble is two pulses (`expand_of_rawNibble`), which run to completion (`exec_pulses_completes`); each
records its transaction and its hold time (`State.pulse_hist`). -/
theorem rawNibblesComplete : Obligations.RawNibblesComplete := by
  unfold Obligations.RawNibblesComplete
  intro s c q i v hi hc hq hok
  obtain ⟨hf, he⟩ := expand_of_rawNibble hi
  obtain ⟨hx, hseq, hframe⟩ := exec_pulses_completes (.inl hf) he hc hq hok
  have h0 := hok 0 (by decide)
  have h1 := hok 1 (by decide)
  refine ⟨s.pulses c (nibPulses v false), _, _, _, _, hx, rfl, rfl, rfl, rfl, ?_, ?_, ?_, hseq, rfl, rfl, rfl, hframe⟩
  · simp [State.pulses, nibPulses, tEnHold, tNibHold]
  · simp [State.pulses, nibPulses, tEnHold, tNibHold, State.pulse_hist, h0, h1, Pulse.image]
  · exact State.pulse_portLatch h1

/-- Settles O20: a byte is four pulses (`expand_of_byteOf`) with the images of R158 (`byteImages_eq`), which run to
completion as those of a raw nibble do. -/
theorem bytesComplete : Obligations.BytesComplete := by
  unfold Obligations.BytesComplete
  intro s c q i b rs a0 a1 a2 a3 hi himg hc hq hok
  obtain ⟨hf, he⟩ := expand_of_byteOf hi
  obtain ⟨hx, hseq, hframe⟩ := exec_pulses_completes (.inr hf) he hc hq hok
  obtain ⟨rfl, rfl, rfl, rfl⟩ : _ = a0 ∧ _ = a1 ∧ _ = a2 ∧ _ = a3 := by
    simpa [bytePulses, nibPulses, byteImages_eq] using himg
  have h0 := hok 0 (by decide)
  have h1 := hok 1 (by decide)
  have h2 := hok 2 (by decide)
  have h3 := hok 3 (by decide)
  refine ⟨s.pulses c (bytePulses b rs), _, _, _, _, _, _, _, _, hx, rfl, rfl, rfl, rfl, rfl, rfl, rfl, rfl, ?_, ?_, ?_,
    hseq, rfl, rfl, rfl, hframe⟩
  · simp [State.pulses, bytePulses, nibPulses, tEnHold, tNibHold]
  · simp [State.pulses, bytePulses, nibPulses, tEnHold, tNibHold, State.pulse_hist, h0, h1, h2, h3]
  · exact State.pulse_portLatch h3

/-- Settles O21: the pulses before the failure are recorded whole and the failing one by its transaction alone
(`runMicros_pulses_fails`, `transmit_abort_hist`), so the images are the first `k + 1` of the byte. -/
theorem bytesAbort : Obligations.BytesAbort := by
  unfold Obligations.BytesAbort
  intro s c q i b rs k kind hi hc hq hk hok hfail
  obtain ⟨hf, he⟩ := expand_of_byteOf hi
  have hk : k < (bytePulses b rs).length := hk
  obtain ⟨ps, p, ps', hps, rfl⟩ : ∃ ps p ps', bytePulses b rs = ps ++ p :: ps' ∧ ps.length = k :=
    ⟨_, (bytePulses b rs)[k], _, by rw [List.getElem_cons_drop, List.take_append_drop], List.length_take_of_le (Nat.le_of_lt hk)⟩
  have hprog : pulseProg (bytePulses b rs) = pulseProg ps ++ (p.micros ++ pulseProg ps') := by
    rw [hps, pulseProg, List.flatMap_append, List.flatMap_cons]
    rfl
  have hs : (s.pulses c ps).nextTx.status = .err kind := by
    rw [State.nextTx_eq_txAt, State.txAt_pulses]
    exact hfail
  have hx : exec i s =
      .next ((transmit c.addr (p.image c) (s.pulses c ps)).mapInst (Inst.abort kind)) := by
    rw [exec_pulses (.inr hf) he hc hq, hprog, runMicros_pulses_fails hok hfail, Ran.finish]
  obtain ⟨done, r⟩ := runMicros_records (runMicros_pulseProg (c := c) hok)
  have himg : imagesOf done = ps.map (Pulse.image c) := by rw [r.recorded.imagesOf_eq, imagesUnder_pulseProg]
  have hhist := (transmit_abort_hist hs c.addr (p.image c)).trans (by rw [r.hist, List.append_assoc])
  refine ⟨_, _, hx, hhist, ?_, ?_, Inst.abort_seq .., ?_, Inst.abort_lcd .., ?_, r.frame.peers⟩
  · simp [r.recorded.length_eq, pulseProg_length]
  · have htake : (ps ++ p :: ps').take (ps.length + 1) = ps ++ [p] := List.take_length_add_append 1
    rw [byteImages_eq, hps, imagesOf_append, himg, ← List.map_take, htake, List.map_append]
    rfl
  · simp [latchAfter, hs]
  · simp [r.frame.waiters]

end Sys2Proof.Machine
end

section
/-! PROOFS. The init sequencer (spec/43_init_sequencer.md): the images, the transactions, the waits and the minimum
duration of a micro-program, put together from those of its nibbles, bytes and waits, and INIT_PROG by them. -/

namespace Sys2Proof.Machine

/-! ### Micro-programs, part by part -/

section

variable (ms ms' : List MicroOp) (bl : Bool) (v : Nibble) (b : Byte) (rs : Bool) (t : Nat)

@[simp] theorem imagesUnder_append : imagesUnder bl (ms ++ ms') = imagesUnder bl ms ++ imagesUnder bl ms' :=
  List.filterMap_append

@[simp] theorem txCount_append : txCount (ms ++ ms') = txCount ms + txCount ms' := List.countP_append

@[simp] theorem minDuration_append : minDuration (ms ++ ms') = minDuration ms + minDuration ms' := by
  simp [minDuration]

@[simp] theorem imagesUnder_nil : imagesUnder bl [] = [] := rfl

@[simp] theorem txCount_nil : txCount [] = 0 := rfl

@[simp] theorem minDuration_nil : minDuration [] = 0 := rfl

@[simp] theorem imagesUnder_wait_cons : imagesUnder bl (.wait t :: ms) = imagesUnder bl ms := rfl

@[simp] theorem txCount_wait_cons : txCount (.wait t :: ms) = txCount ms :=
  List.countP_cons_of_neg Bool.false_ne_true

@[simp] theorem minDuration_wait_cons : minDuration (.wait t :: ms) = t + minDuration ms := by
  simp [minDuration, MicroOp.minTime]

/-- A micro-operation is a transaction or a wait. -/
theorem txCount_add_waitCount : txCount ms + waitCount ms = ms.length := by
  simp [txCount, waitCount, List.length_eq_countP_add_countP MicroOp.isTx (l := ms)]

/-- EN high, then EN low (R150). -/
@[simp] theorem imagesUnder_nibProg :
    imagesUnder bl (nibProg v rs) = [image v rs bl true, image v rs bl false] := rfl

@[simp] theorem txCount_nibProg : txCount (nibProg v rs) = 2 := rfl

/-- The holds of a nibble, 1 µs and 50 µs (R134, R150). -/
@[simp] theorem minDuration_nibProg : minDuration (nibProg v rs) = 51_000 := by
  simp [minDuration, nibProg, MicroOp.minTime, tEnHold, tNibHold]

@[simp] theorem txCount_byteProg : txCount (byteProg b rs) = 4 := rfl

@[simp] theorem minDuration_byteProg : minDuration (byteProg b rs) = 102_000 := by
  simp [byteProg]

end

/-! ### INIT_PROG -/

/-- R190: the images are those of the twelve nibbles in order. -/
theorem imagesUnder_initProg :
    imagesUnder true initProg =
      [0x3C, 0x38, 0x3C, 0x38, 0x3C, 0x38, 0x2C, 0x28, 0x2C, 0x28, 0x8C, 0x88, 0x0C, 0x08, 0xCC, 0xC8, 0x0C, 0x08,
        0x1C, 0x18, 0x0C, 0x08, 0x6C, 0x68] := by
  simp only [initProg, byteProg, imagesUnder_append, imagesUnder_nil, imagesUnder_wait_cons, imagesUnder_nibProg]
  decide

/-- R190: four raw nibbles and the four bytes of the commands. -/
theorem txCount_initProg : txCount initProg = 24 := by
  simp [initProg]

theorem waitCount_initProg : waitCount initProg = 33 := by
  have htotal := txCount_add_waitCount initProg
  rw [txCount_initProg, initProg_length] at htotal
  omega

/-- R190: 63 ms of step waits and 612 µs of nibble holds. -/
theorem minDuration_initProg : minDuration initProg = 63_612_000 := by
  simp [initProg, tPower, tInitFirst, tInitNext, t4Bit, tCmd, tClear]

/-- Settles O25: with its nibbles, bytes and waits written out INIT_PROG is the list of R180, and its images, counts and
duration are those of its parts. -/
theorem initProgramShape : Obligations.InitProgramShape := by
  unfold Obligations.InitProgramShape
  exact ⟨rfl, imagesUnder_initProg, initProg_length, txCount_initProg, waitCount_initProg, minDuration_initProg⟩

end Sys2Proof.Machine
end

section
/-! PROOFS. The buffer writer (spec/44_buffer_writer.md): WB_PROG row by row with its counts (`wbProg_eq_rows`), and the
three ways in which a WRITE completes: by a failed transaction, at the end of its last wait, or at once where it has no
bytes. -/

namespace Sys2Proof.Machine

/-! ### A failed transaction ends a WRITE -/

/-- A transaction whose adapter returns an error is the abort of its operation (R273). -/
theorem txMicro_of_err {s : State} {kind : TxKind} (hs : s.nextTx.status = .err kind) (addr : Word7) (img : Byte)
    (m : MicroOp) : txMicro addr img m s = .aborted ((transmit addr img s).mapInst (Inst.abort kind)) := by
  rw [txMicro, hs]

/-- What a transaction that fails leaves before the abort, field by field (R110, R113). -/
theorem transmit_of_err {s : State} {kind : TxKind} (hs : s.nextTx.status = .err kind) (addr : Word7) (img : Byte) :
    transmit addr img s = { s with
      now := s.now + s.txTime 0
      env := { s.env with txs := s.env.txs.tail }
      inst := { s.inst with
        hist := s.inst.hist ++ [.tx s.now (s.now + s.txTime 0) addr img (.err kind)]
        portLatch := .unknown } } := by
  simp only [transmit, latchAfter, hs, State.txDone_eq]

/-- R218, R252: the abort of a WRITE, field by field. -/
theorem Inst.abort_of_writing {i : Inst} {w : Cur} (hl : i.life = .writing) (hw : i.cur = some w) (kind : TxKind) :
    i.abort kind = { i with
      lcd := .unknown
      trail := []
      life := .ready
      lock := .free
      cur := none
      seq := none
      result := assocPut w.caller (Result.transportError kind).word i.result } := by
  rw [Inst.abort, hl]
  simp only [Inst.endWrite, Inst.loseLcd, hw]

/-- Settles O15: the instruction is its transaction (`exec_port_txMicro`), which fails (`txMicro_of_err`) and is
recorded (`transmit_of_err`), and the abort ends the WRITE (`Inst.abort_of_writing`). -/
theorem failedTransactionEndsWrite : Obligations.FailedTransactionEndsWrite := by
  unfold Obligations.FailedTransactionEndsWrite
  intro s c q w d bl rs en kind hl hc hq hw hs
  have habort := Inst.abort_of_writing (i := (transmit c.addr (image d rs bl en) s).inst) hl hw kind
  rw [exec_port_txMicro hc hq, txMicro_of_err hs, Ran.finish, State.mapInst, habort, transmit_of_err hs]

/-! ### WB_PROG, row by row -/

section
variable (bs : List Byte)

theorem flat_dataParts : flat (dataParts bs) = bs.flatMap fun b => byteProg b true := by
  rw [flat, dataParts, List.flatMap_map]
  rfl

theorem flat_dataParts_cons (b : Byte) : flat (dataParts (b :: bs)) = byteProg b true ++ flat (dataParts bs) :=
  flat_cons ..

@[simp] theorem txCount_dataParts : txCount (flat (dataParts bs)) = 4 * bs.length := by
  induction bs with
  | nil => rfl
  | cons b bs ih =>
    rw [flat_dataParts_cons, txCount_append, txCount_byteProg, ih, List.length_cons]
    omega

@[simp] theorem length_dataParts : (flat (dataParts bs)).length = 8 * bs.length := by
  induction bs with
  | nil => rfl
  | cons b bs ih =>
    rw [flat_dataParts_cons, List.length_append, byteProg_length, ih, List.length_cons]
    omega

@[simp] theorem minDuration_dataParts : minDuration (flat (dataParts bs)) = 102_000 * bs.length := by
  induction bs with
  | nil => rfl
  | cons b bs ih =>
    rw [flat_dataParts_cons, minDuration_append, minDuration_byteProg, ih, List.length_cons]
    omega

end

/-- The two rows hold all bytes. -/
theorem length_rows (buf : List Byte) : (buf.take 16).length + (buf.drop 16).length = buf.length := by
  rw [← List.length_append, List.take_append_drop]

/-- The row change, where a second row has bytes (R216). -/
def rowChange (buf : List Byte) : List MicroOp := if buf.length ≤ 16 then [] else row1Seq

/-- The row changes at most once. -/
theorem rowChange_cases (buf : List Byte) :
    (buf.length ≤ 16 ∧ rowChange buf = []) ∨ (16 < buf.length ∧ rowChange buf = row1Seq) := by
  rcases Nat.lt_or_ge 16 buf.length with h | h
  · exact .inr ⟨h, if_neg (Nat.not_le_of_lt h)⟩
  · exact .inl ⟨h, if_pos h⟩

section
variable {len : Word7} {buf : List Byte} (h : LegalWrite len buf)
include h

/-- R211: the bytes that are rendered. -/
theorem LegalWrite.length_eq : buf.length = min len.toNat 32 := h.2.2

/-- R210 to R216: Clear, Home, the first row, the row change where there is a second row, and the second row. -/
theorem wbProg_eq_rows :
    wbProg len buf = clearSeq ++ homeSeq ++ flat (dataParts (buf.take 16)) ++ rowChange buf
      ++ flat (dataParts (buf.drop 16)) := by
  have hrow : flat (if buf.length ≤ 16 then [] else [.instr .setDdramRow1, .wait 1_000_000]) = rowChange buf := by
    unfold rowChange
    split <;> rfl
  rw [wbProg_of_legal h, wbData_eq_flat, flat_append, flat_append, hrow]
  simp only [List.append_assoc]

/-- Four transactions for Clear, for Home and for each byte. -/
theorem txCount_wbProg : txCount (wbProg len buf) = 8 + 4 * buf.length + txCount (rowChange buf) := by
  have hclear : txCount clearSeq = 4 := rfl
  have hhome : txCount homeSeq = 4 := rfl
  have hrows := length_rows buf
  simp only [wbProg_eq_rows h, txCount_append, hclear, hhome, txCount_dataParts]
  omega

/-- Eight micro-operations for Clear, for Home and for each byte, and the waits after Clear and Home. -/
theorem length_wbProg : (wbProg len buf).length = 18 + 8 * buf.length + (rowChange buf).length := by
  have hclear : clearSeq.length = 9 := rfl
  have hhome : homeSeq.length = 9 := rfl
  have hrows := length_rows buf
  simp only [wbProg_eq_rows h, List.length_append, hclear, hhome, length_dataParts]
  omega

/-- The 2 ms waits after Clear and Home, and the holds of 102 µs of these two and of each byte. -/
theorem minDuration_wbProg :
    minDuration (wbProg len buf) = 4_204_000 + 102_000 * buf.length + minDuration (rowChange buf) := by
  have hclear : minDuration clearSeq = 2_102_000 := rfl
  have hhome : minDuration homeSeq = 2_102_000 := rfl
  have hrows := length_rows buf
  simp only [wbProg_eq_rows h, minDuration_append, hclear, hhome, minDuration_dataParts]
  omega

end

/-- Settles O26: the rows of `wbProg_eq_rows`; where the row does not change, no byte is left for the second. -/
theorem writeProgramShape : Obligations.WriteProgramShape := by
  unfold Obligations.WriteProgramShape
  intro len buf h
  rw [wbProg_eq_rows h, flat_dataParts, flat_dataParts, ← h.length_eq]
  rcases rowChange_cases buf with ⟨hle, hrow⟩ | ⟨hlt, hrow⟩ <;> rw [hrow]
  · rw [if_pos hle, List.drop_eq_nil_of_le hle]
    simp only [clearSeq, homeSeq, List.append_assoc]
    rfl
  · rw [if_neg (Nat.not_le_of_lt hlt)]
    simp only [clearSeq, homeSeq, row1Seq, List.append_assoc]
    rfl

/-- Settles O27: the counts of the program by its rows (`txCount_wbProg`, `length_wbProg`, `minDuration_wbProg`), with
nothing or the row change between them (`rowChange_cases`). -/
theorem writeProgramCounts : Obligations.WriteProgramCounts := by
  unfold Obligations.WriteProgramCounts
  intro len buf h ne r hne hr
  obtain rfl : buf.length = ne := h.length_eq.trans hne.symm
  have htx := txCount_wbProg h
  have hlen := length_wbProg h
  have htime := minDuration_wbProg h
  have htotal := txCount_add_waitCount (wbProg len buf)
  rcases rowChange_cases buf with ⟨hle, hrow⟩ | ⟨hlt, hrow⟩ <;> rw [hrow] at htx hlen htime
  · obtain rfl : r = 0 := hr.trans (if_neg (Nat.not_lt_of_le hle))
    simp only [txCount_nil, List.length_nil, minDuration_nil] at htx hlen htime
    omega
  · obtain rfl : r = 1 := hr.trans (if_pos hlt)
    have htx1 : txCount row1Seq = 4 := rfl
    have hlen1 : row1Seq.length = 9 := rfl
    have htime1 : minDuration row1Seq = 1_102_000 := rfl
    omega

/-! ### A WRITE completes -/

section
variable {i : Inst} {w : Cur}

/-- R27: behind its last micro-operation a program is at its end. -/
theorem Inst.atEnd_of_last {q : Seq} {m : MicroOp} (hq : i.seq = some ⟨q.prog, q.upc + 1⟩)
    (hp : q.prog.drop q.upc = [m]) : i.atEnd = true := by
  rw [Inst.atEnd_of_seq hq, decide_eq_true_eq, ← List.drop_eq_nil_iff]
  exact drop_succ_of_drop hp

/-- R223: a WRITE at its end completes with its length as the count. -/
theorem Inst.complete_of_writing (hl : i.life = .writing) (hw : i.cur = some w) :
    i.complete = i.closeTrail.endWrite (.ok w.len) := by
  have hlen : i.curLen = w.len := by rw [Inst.curLen, hw]; rfl
  rw [Inst.complete, hl, ← hlen]

theorem Inst.result_endWrite (hw : i.cur = some w) (r : Result) :
    (i.endWrite r).result = assocPut w.caller r.word i.result := by
  rw [Inst.endWrite_result, hw]

/-- R30: the caller sees the result, where it has no other request outstanding (R240). -/
theorem Inst.resultOf_endWrite (hw : i.cur = some w) (hwait : assocGet w.caller i.waiters = none)
    (hop : i.opCaller ≠ some w.caller) (r : Result) : (i.endWrite r).resultOf w.caller = some r.word := by
  have ho : (i.endWrite r).outstanding w.caller = false := by simp [Inst.outstanding, hwait, hop]
  rw [Inst.resultOf, ho, Inst.result_endWrite hw, assocGet_put_self]
  rfl

end

/-- The end of a wait keeps the frame. -/
theorem finishWait_sameButSequencer (s : State) : s.SameButSequencer (finishWait s) := by
  unfold finishWait
  cases s.inst.dly with
  | idle => exact .refl s
  | running t tStart => constructor <;> rfl

theorem finishWait_portLatch (s : State) : (finishWait s).inst.portLatch = s.inst.portLatch := by
  unfold finishWait
  cases s.inst.dly <;> rfl

/-- A wait has no image. -/
theorem imagesOf_finishWait (s : State) : imagesOf (finishWait s).inst.hist = imagesOf s.inst.hist := by
  unfold finishWait
  cases s.inst.dly with
  | idle => rfl
  | running t tStart =>
    rw [Inst.advance_hist, imagesOf_append]
    exact List.append_nil _

/-- R223, R252: where the last wait of a WRITE runs, the block's turn ends it and with it the WRITE. -/
theorem step_endsWrite {s : State} {c : Ctx} {w : Cur} {q : Seq} {t t' tStart : Nat} (hr : s.inst.refused = false)
    (ht : s.nextTurn = .single ∨ s.nextTurn = .whole) (hl : s.inst.life = .writing) (hc : s.inst.ctx = some c)
    (hw : s.inst.cur = some w) (hq : s.inst.seq = some q) (hp : q.prog.drop q.upc = [.wait t])
    (hd : s.inst.dly = .running t' tStart) :
    step s = .next ((finishWait s.dropTurn).mapInst fun i => i.closeTrail.endWrite (.ok w.len)) := by
  have hframe := finishWait_sameButSequencer s.dropTurn
  have hseq : (finishWait s.dropTurn).inst.seq = some ⟨q.prog, q.upc + 1⟩ := by
    rw [finishWait_of_running (s := s.dropTurn) hq hd]
  rw [step_endsWait hr hc hq ht hd hp, State.settle, if_pos (Inst.atEnd_of_last hseq hp), State.mapInst,
    Inst.complete_of_writing (hframe.life.trans hl) (hframe.cur.trans hw)]
  rfl

/-- Settles O41: the step ends the wait and the WRITE (`step_endsWrite`); the end of a wait keeps the frame
(`finishWait_sameButSequencer`), and the count is the length (`Result.word_ok`). -/
theorem writeCompletes : Obligations.WriteCompletes := by
  unfold Obligations.WriteCompletes
  intro s c w q t tStart hr ht hl hc hw hq hp hd
  have hframe := finishWait_sameButSequencer s.dropTurn
  have hcur : (finishWait s.dropTurn).inst.closeTrail.cur = some w := hframe.cur.trans hw
  have hresult := Inst.result_endWrite hcur (.ok w.len)
  rw [Result.word_ok, Inst.closeTrail_result, hframe.result] at hresult
  refine ⟨_, step_endsWrite hr ht hl hc hw hq hp hd, hresult, rfl, rfl, rfl, rfl, hframe.ctx, hframe.waiters,
    hframe.attachResult, finishWait_portLatch _, fun hwait hop => ?_, imagesOf_finishWait _⟩
  rw [← Result.word_ok]
  exact Inst.resultOf_endWrite hcur (by rwa [Inst.closeTrail_waiters, hframe.waiters])
    (by rwa [Inst.closeTrail_opCaller, hframe.opCaller]) _

/-! ### A WRITE of no bytes -/

/-- R212: a WRITE of length 0 that is not refused. -/
theorem issueWrite_empty {s : State} (hl : s.inst.life = .ready ∨ s.inst.life = .writing)
    (ho : s.inst.outstanding s.port.caller = false) :
    issueWrite 0 s =
      s.mapInst fun i => { i with result := assocPut s.port.caller (Result.ok 0).word i.result } := by
  have hlen : ¬ Config.maxReqLen < (0 : Word7).toNat := by decide
  have hlife : ¬ (s.inst.life ≠ .ready ∧ s.inst.life ≠ .writing) := fun h => hl.elim h.1 h.2
  simp only [issueWrite, hlen, hlife, ho, if_false, if_true, Bool.false_eq_true]

/-- R30: a caller with nothing outstanding sees the result put for it. -/
theorem Inst.resultOf_putResult_self {i : Inst} {k : Nat} (ho : i.outstanding k = false) (r : Word16) :
    Inst.resultOf k { i with result := assocPut k r i.result } = some r := by
  have ho : Inst.outstanding k { i with result := assocPut k r i.result } = false := ho
  rw [Inst.resultOf, ho, assocGet_put_self]
  rfl

/-- Every other caller sees what it saw. -/
theorem Inst.resultOf_putResult_ne {k caller : Nat} (h : caller ≠ k) (i : Inst) (r : Word16) :
    Inst.resultOf caller { i with result := assocPut k r i.result } = i.resultOf caller := by
  rw [Inst.resultOf, assocGet_put_ne _ _ _ _ h]
  rfl

/-- Settles O38: the empty WRITE puts its caller's result alone (`issueWrite_empty`), which that caller sees and no
other (`Inst.resultOf_putResult_self`, `Inst.resultOf_putResult_ne`). -/
theorem emptyWriteCompletesAtOnce : Obligations.EmptyWriteCompletesAtOnce := by
  unfold Obligations.EmptyWriteCompletesAtOnce
  intro s hl ho
  exact ⟨_, congrArg Host.Outcome.next (issueWrite_empty hl ho), rfl, Inst.resultOf_putResult_self ho _,
    fun _ hother => Inst.resultOf_putResult_ne hother _ _⟩

end Sys2Proof.Machine
end

section
/-! PROOFS. The addresses of the live instances stay apart (R241, R258 F3): the start of an ATTACH is the one turn that
makes a context, and no other live `Inst` holds its address; a change of focus is an exchange. -/

namespace Sys2Proof.Machine

theorem Inst.Apart.symm {a b : Inst} (h : a.Apart b) : b.Apart a :=
  fun c d hc hd he => h d c hd hc he.symm

/-- Of an `Inst` that keeps its context or loses it. -/
theorem Inst.Apart.of_ctx {a a' b : Inst} (h : a.Apart b) (hc : a'.ctx = a.ctx ∨ a'.ctx = none) : a'.Apart b := by
  intro c d hc' hd
  rcases hc with hc | hc <;> rw [hc] at hc'
  · exact h c d hc' hd
  · cases hc'

/-- An address that no other live `Inst` holds (R258 F3). -/
theorem apart_of_not_peerHolds {s : State} {i p : Inst} {c : Ctx} (h : s.peerHolds c.addr = false)
    (hi : i.ctx = some c) (hp : p ∈ s.peers) : i.Apart p := by
  intro c' d hc' hd he
  obtain rfl : c = c' := Option.some.inj (hi.symm.trans hc')
  have hheld : s.peerHolds c.addr = true := List.any_eq_true.2 ⟨p, hp, by simp [hd, he]⟩
  rw [h] at hheld
  cases hheld

section
variable {s t : State}

/-- The `Inst` in focus changes, and the others do not. -/
theorem State.AddressesApart.of_focus (h : s.AddressesApart) (hp : t.peers = s.peers)
    (hi : ∀ p ∈ s.peers, t.inst.Apart p) : t.AddressesApart := by
  unfold State.AddressesApart
  rw [hp]
  exact List.pairwise_cons.2 ⟨hi, (List.pairwise_cons.1 h).2⟩

theorem State.Continues.addressesApart (hc : s.Continues t) (h : s.AddressesApart) : t.AddressesApart :=
  h.of_focus hc.peers fun p hp => ((List.pairwise_cons.1 h).1 p hp).of_ctx hc.ctx

/-- R241: an ATTACH to an address that a live `Inst` holds is refused. -/
theorem issueAttach_addressesApart (h : s.AddressesApart) (addr : Word7) : (issueAttach addr s).AddressesApart := by
  rcases issueAttach_cases addr s with ⟨-, he⟩ | ⟨-, -, he⟩ | ⟨-, he | he⟩ | ⟨-, hfree, he⟩ <;> rw [he]
  · exact h.of_focus rfl (List.pairwise_cons.1 h).1
  · exact h.of_focus rfl (List.pairwise_cons.1 h).1
  · exact h.of_focus rfl (List.pairwise_cons.1 h).1
  · exact h.of_focus rfl (List.pairwise_cons.1 h).1
  · exact h.of_focus rfl fun p hp => apart_of_not_peerHolds (c := ⟨addr, true⟩) hfree rfl hp

theorem hostTurn_addressesApart {e : HostEvent} (h : s.AddressesApart) (ht : hostTurn e s = .next t) :
    t.AddressesApart := by
  rcases hostTurn_cases ht with ⟨r, -, ht⟩ | ⟨-, rfl⟩ | ⟨-, rfl⟩ | ⟨-, rfl⟩
  · have hr : ({ s with port := r } : State).AddressesApart := h
    rcases ht with rfl | ⟨a, rfl⟩ | ⟨len, rfl⟩ | rfl | rfl
    · exact hr
    · exact issueAttach_addressesApart hr a
    · exact (State.Continues.issueWrite len _).addressesApart hr
    · exact (State.Continues.issueDetach _).addressesApart hr
    · exact (State.Continues.refuse _ _).addressesApart hr
  · exact (State.Continues.refuse s _).addressesApart h
  · exact (State.Continues.refuse s _).addressesApart h
  · exact (State.Continues.resetEvent s).addressesApart h

theorem State.AddressesApart.focus (h : s.AddressesApart) (k : Nat) : (s.focus k).AddressesApart := by
  rcases s.focus_cases k with ⟨-, he⟩ | ⟨p, hp, he⟩ <;> rw [he]
  · exact h
  · exact List.Pairwise.perm h (exchange_perm hp s.inst).symm Inst.Apart.symm

end

/-- Settles O54: a host's event starts an ATTACH at a free address alone (`hostTurn_addressesApart`); every other turn
keeps the context or destroys it (`State.Continues.addressesApart`), and a change of focus is an exchange
(`State.AddressesApart.focus`). -/
theorem stepKeepsAddressesApart : Obligations.StepKeepsAddressesApart := by
  unfold Obligations.StepKeepsAddressesApart
  intro s t _ h hs
  have hd : s.dropTurn.AddressesApart := h
  rcases step_cases hs with ⟨dt, -, rfl⟩ | ⟨k, -, rfl⟩ | ⟨e, -, -, he⟩ | ⟨ok, -, -, rfl⟩ | ⟨whole, -, -, hb⟩
  · exact hd
  · exact hd.focus k
  · exact hostTurn_addressesApart hd he
  · exact (State.Continues.registerTurn ok _).addressesApart hd
  · exact (blockTurn_continues hb).addressesApart hd

end Sys2Proof.Machine
end

section
/-! PROOFS. Requests one by one (R241 to R259): IDLE, the checks and the start of an ATTACH, the start of a DETACH, and
the refusal table. -/

namespace Sys2Proof.Machine

/-! ### IDLE -/

/-- Settles O34: the descriptor of IDLE decodes to IDLE, whose meaning is the state itself (`step_request`). -/
theorem idleDoesNothing : Obligations.IdleDoesNothing := by
  unfold Obligations.IdleDoesNothing
  refine ⟨fun s => rfl, fun s r hr ht hw => ?_, rfl⟩
  have hd : decodeReq16 r.word = .ok .idle := by rw [hw]; rfl
  rw [step_request hr ht, hostTurn, hd]
  rfl

/-! ### ATTACH -/

section
variable {s : State} {addr : Word7}

/-- In DETACHED, with the address free, an ATTACH is checked: the capability, then the allocation (R242, R243). -/
theorem issueAttach_detached (hl : s.inst.life = .detached) (hp : s.peerHolds addr = false) :
    issueAttach addr s =
      if !s.port.capOk then s.mapInst fun i => { i with attachResult := some Result.capabilityError.word }
      else if !s.port.allocOk then s.mapInst fun i => { i with attachResult := some Result.allocationError.word }
      else s.mapInst (Inst.startAttach addr s.port.caller s.now) := by
  rw [issueAttach, if_neg (not_not_intro hl), if_neg (by rw [hp]; nofun)]

/-- R244: with both checks passed it starts. -/
theorem issueAttach_accepted (hl : s.inst.life = .detached) (hp : s.peerHolds addr = false)
    (hcap : s.port.capOk = true) (halloc : s.port.allocOk = true) :
    issueAttach addr s = s.mapInst (Inst.startAttach addr s.port.caller s.now) := by
  rw [issueAttach_detached hl hp, hcap, halloc]
  rfl

end

/-- Settles O35: the first check that fails writes its word, and nothing else (`issueAttach_detached`). -/
theorem attachChecks : Obligations.AttachChecks := by
  unfold Obligations.AttachChecks
  intro s addr hl hp
  refine ⟨fun hcap => ?_, fun hcap halloc => ?_⟩
  · exact congrArg Host.Outcome.next (by rw [issueAttach_detached hl hp, hcap]; rfl)
  · exact congrArg Host.Outcome.next (by rw [issueAttach_detached hl hp, hcap, halloc]; rfl)

/-- Settles O36: with both checks passed the ATTACH starts (`issueAttach_accepted`). -/
theorem attachStarts : Obligations.AttachStarts := by
  unfold Obligations.AttachStarts
  intro s addr hl hp hcap halloc
  exact congrArg Host.Outcome.next (issueAttach_accepted hl hp hcap halloc)

/-! ### DETACH -/

theorem issueDetach_accepted {s : State} (hl : s.inst.life = .ready) (hw : s.inst.waiters = []) :
    issueDetach s = s.mapInst (Inst.startDetach s.port.caller) := by
  rw [issueDetach, if_neg (not_not_intro hl), if_neg (not_not_intro hw)]

/-- Settles O42: in READY without waiters the DETACH starts (`issueDetach_accepted`). -/
theorem detachStarts : Obligations.DetachStarts := by
  unfold Obligations.DetachStarts
  intro s hl hw
  exact congrArg Host.Outcome.next (issueDetach_accepted hl hw)

/-! ### The refusal table -/

section
variable {s : State} {addr len : Word7}

/-- F2. -/
theorem issueAttach_f2 (hl : s.inst.life ≠ .detached) : issueAttach addr s = s.refuse .f2 := if_pos hl

/-- F3. -/
theorem issueAttach_f3 (hl : s.inst.life = .detached) (hp : s.peerHolds addr = true) :
    issueAttach addr s = s.refuse .f3 := by
  rw [issueAttach, if_neg (not_not_intro hl), if_pos hp]

/-- F1, for a length over 64. -/
theorem issueWrite_f1 (h64 : 64 < len.toNat) : issueWrite len s = s.refuse .f1 := if_pos h64

theorem not_over_maxReqLen (h64 : len.toNat ≤ 64) : ¬ Config.maxReqLen < len.toNat := Nat.not_lt_of_le h64

/-- F4. -/
theorem issueWrite_f4 (h64 : len.toNat ≤ 64) (hready : s.inst.life ≠ .ready) (hwriting : s.inst.life ≠ .writing) :
    issueWrite len s = s.refuse .f4 := by
  rw [issueWrite, if_neg (not_over_maxReqLen h64), if_pos ⟨hready, hwriting⟩]

/-- F5. -/
theorem issueWrite_f5 (h64 : len.toNat ≤ 64) (hl : s.inst.life = .ready ∨ s.inst.life = .writing)
    (ho : s.inst.outstanding s.port.caller = true) : issueWrite len s = s.refuse .f5 := by
  have hlife : ¬ (s.inst.life ≠ .ready ∧ s.inst.life ≠ .writing) := fun h => hl.elim h.1 h.2
  rw [issueWrite, if_neg (not_over_maxReqLen h64), if_neg hlife, if_pos ho]

/-- F6. -/
theorem issueDetach_f6 (hl : s.inst.life ≠ .ready) : issueDetach s = s.refuse .f6 := if_pos hl

/-- F7. -/
theorem issueDetach_f7 (hl : s.inst.life = .ready) (hw : s.inst.waiters ≠ []) : issueDetach s = s.refuse .f7 := by
  rw [issueDetach, if_neg (not_not_intro hl), if_pos hw]

end

/-- Settles O43: each row of R258 by its own lemma (`issueAttach_f2` to `issueDetach_f7`), a read and a control as they
come, and a reset by where the run stands. -/
theorem refusalTable : Obligations.RefusalTable := by
  unfold Obligations.RefusalTable
  intro s addr len
  have next {a b : State} (h : a = b) : (Host.Outcome.next a : Host.Outcome State Fault Refusal) = .next b :=
    congrArg _ h
  exact ⟨fun hl => next (issueAttach_f2 hl), fun hl hp => next (issueAttach_f3 hl hp),
    fun h64 hr hw => next (issueWrite_f4 h64 hr hw), fun h64 hl ho => next (issueWrite_f5 h64 hl ho),
    fun h64 => next (issueWrite_f1 h64), fun hl => next (issueDetach_f6 hl), fun hl hw => next (issueDetach_f7 hl hw),
    rfl, rfl, fun hne => next (if_neg hne), fun he => next (if_pos he)⟩

end Sys2Proof.Machine
end

section
/-! PROOFS. The ends of an ATTACH and of a DETACH (R246 to R249, R254), by a failed transaction or by `REG_OK`, and the
grant of a waiter (R251). -/

namespace Sys2Proof.Machine

/-! ### A failed transaction -/

/-- R246: the abort of an ATTACH, field by field. -/
theorem Inst.abort_of_attaching {i : Inst} (hl : i.life = .attaching) (kind : TxKind) :
    i.abort kind = { i with
      lcd := .unknown
      trail := []
      life := .detached
      lock := .free
      ctx := none
      cur := none
      seq := none
      fsm := Fsm.reset
      dly := .idle
      opCaller := none
      attachResult := some (Result.transportError kind).word } := by
  rw [Inst.abort, hl]
  rfl

/-- R254: the abort of a DETACH is its end, with the LCD lost. -/
theorem Inst.abort_of_detaching {i : Inst} (hl : i.life = .detaching) (kind : TxKind) :
    i.abort kind = i.loseLcd.endDetach := by
  rw [Inst.abort, hl]

/-- R254: the end of a DETACH, field by field. -/
theorem Inst.endDetach_of_caller {i : Inst} {caller : Nat} (ho : i.opCaller = some caller) :
    i.endDetach = { i with
      life := .detached
      lock := .free
      ctx := none
      cur := none
      seq := none
      fsm := Fsm.reset
      dly := .idle
      opCaller := none
      result := assocPut caller 0x0000 i.result } := by
  rw [Inst.endDetach, ho]
  rfl

/-- A PORT8 instruction whose transaction fails is the transaction and the abort (R113, R273). -/
theorem exec_port_of_err {s : State} {c : Ctx} {q : Seq} {kind : TxKind} (hc : s.inst.ctx = some c)
    (hq : s.inst.seq = some q) (hs : s.nextTx.status = .err kind) (d : Nibble) (bl rs en : Bool) :
    exec (if en then .portEnHi d bl rs else .portEnLo d bl rs) s =
      .next ((transmit c.addr (image d rs bl en) s).mapInst (Inst.abort kind)) := by
  rw [exec_port_txMicro hc hq, txMicro_of_err hs, Ran.finish]

/-- Settles O14: the failed transaction is recorded (`transmit_of_err`), and the abort ends the ATTACH
(`Inst.abort_of_attaching`). -/
theorem failedTransactionEndsAttach : Obligations.FailedTransactionEndsAttach := by
  unfold Obligations.FailedTransactionEndsAttach
  intro s c q d bl rs en kind hl hc hq hs
  have habort := Inst.abort_of_attaching (i := (transmit c.addr (image d rs bl en) s).inst) hl kind
  rw [exec_port_of_err hc hq hs, State.mapInst, habort, transmit_of_err hs]

/-- Settles O16: the failed transaction is recorded (`transmit_of_err`), and the abort ends the DETACH with OK
(`Inst.abort_of_detaching`, `Inst.endDetach_of_caller`). -/
theorem failedTransactionEndsDetach : Obligations.FailedTransactionEndsDetach := by
  unfold Obligations.FailedTransactionEndsDetach
  intro s c q caller d bl rs en kind hl hc hq ho hs
  have habort := Inst.abort_of_detaching (i := (transmit c.addr (image d rs bl en) s).inst) hl kind
  have hend := Inst.endDetach_of_caller (i := (transmit c.addr (image d rs bl en) s).inst.loseLcd) ho
  rw [exec_port_of_err hc hq hs, State.mapInst, habort, hend, transmit_of_err hs]
  rfl

/-! ### The block's turn -/

section
variable {s : State}

theorem step_single (hr : s.inst.refused = false) (ht : s.nextTurn = .single) :
    step s = blockTurn false s.dropTurn := by
  rw [step, ht]
  exact ifMeaningful_of_not_refused hr _

/-- A step on a turn of the block, of either granularity. -/
theorem step_block (hr : s.inst.refused = false) (ht : s.nextTurn = .single ∨ s.nextTurn = .whole) :
    ∃ whole, step s = blockTurn whole s.dropTurn := by
  rcases ht with ht | ht
  · exact ⟨false, step_single hr ht⟩
  · refine ⟨true, ?_⟩
    rw [step, ht]
    exact ifMeaningful_of_not_refused hr _

/-! ### `REG_OK` -/

/-- At the end of the program the block's turn settles. -/
theorem blockTurn_atEnd {c : Ctx} (hc : s.inst.ctx = some c) (ha : s.inst.atEnd = true) (whole : Bool) :
    blockTurn whole s = .next s.settle := by
  unfold Inst.atEnd at ha
  cases hq : s.inst.seq with
  | none => simp [hq] at ha
  | some q =>
    have hend : q.prog.drop q.upc = [] := by simpa [hq] using ha
    have hf : fetch whole s = .finish := by rw [fetch_running whole hc hq, fetchAt, hend]
    rw [blockTurn, hf]

/-- R247: an ATTACH at its end waits there. -/
theorem settle_of_attaching (hl : s.inst.life = .attaching) (ha : s.inst.atEnd = true) : s.settle = s := by
  rw [State.settle, if_pos ha, State.mapInst, Inst.complete, hl]

/-- R247: `REG_OK` ends the ATTACH that waits for it. -/
theorem step_register {ok : Bool} (hr : s.inst.refused = false) (ht : s.nextTurn = .register ok)
    (hl : s.inst.life = .attaching) (ha : s.inst.atEnd = true) :
    step s = .next (s.dropTurn.mapInst (Inst.endRegistration ok)) := by
  have hturn : registerTurn ok s.dropTurn = s.dropTurn.mapInst (Inst.endRegistration ok) := if_pos ⟨hl, ha⟩
  rw [step, ht, ← hturn]
  exact ifMeaningful_of_not_refused hr _

/-- Where no sequence is under way, the end of an operation does not touch the LCD (R70). -/
theorem Inst.closeTrail_of_settled {i : Inst} (ht : i.trail = []) : i.closeTrail = i := by
  cases i
  cases ht
  rfl

end

/-- Settles O37: at the end of INIT_PROG the block's turns settle, which changes nothing (`blockTurn_atEnd`,
`settle_of_attaching`), and `REG_OK` ends the ATTACH (`step_register`) with the LCD as it is. -/
theorem registrationEndsAttach : Obligations.RegistrationEndsAttach := by
  unfold Obligations.RegistrationEndsAttach
  intro s c upc hr hl hc hq hend htrail
  have ha : s.inst.atEnd = true := (Inst.atEnd_of_seq hq).trans (decide_eq_true hend)
  refine ⟨fun ht => ?_, fun ht => ?_, fun ht => ?_⟩
  · obtain ⟨whole, hstep⟩ := step_block hr ht
    rw [hstep, blockTurn_atEnd (s := s.dropTurn) hc ha, settle_of_attaching (s := s.dropTurn) hl ha]
  · rw [step_register hr ht hl ha, State.mapInst, Inst.endRegistration, State.dropTurn_inst,
      Inst.closeTrail_of_settled htrail]
    rfl
  · rw [step_register hr ht hl ha, State.mapInst, Inst.endRegistration, State.dropTurn_inst,
      Inst.closeTrail_of_settled htrail]
    rfl

/-! ### The grant -/

section
variable {s : State}

/-- In READY with waiters the block's turn is the grant (R251). -/
theorem blockTurn_grant (hl : s.inst.life = .ready) (hq : s.inst.seq = none) (hw : s.inst.waiters ≠ [])
    (whole : Bool) : blockTurn whole s = .next (grantTurn s) := by
  have hf : fetch whole s = .grant := by rw [fetch, hq, if_pos ⟨hl, hw⟩]
  rw [blockTurn, hf]

/-- What the grant of a waiter leaves, field by field. -/
theorem grantTurn_of_pick {k caller : Nat} {w : Waiter} (hk : s.inst.waiters[k]? = some (caller, w))
    (hp : s.nextPick % s.inst.waiters.length = k) :
    grantTurn s = { s with
      env := { s.env with picks := s.env.picks.tail }
      inst := { s.inst with
        waiters := s.inst.waiters.eraseIdx k
        cur := some { caller := caller, len := w.len, buf := w.buf }
        life := .writing
        lock := .held
        seq := some { prog := wbProg w.len w.buf, upc := 0 }
        fsm := s.inst.fsm.startWrite w.len
        trail := [] } } := by
  rw [grantTurn, hp, Inst.grant, hk]

theorem waiters_ne_nil {k : Nat} {a : Nat × Waiter} (hk : s.inst.waiters[k]? = some a) : s.inst.waiters ≠ [] :=
  List.ne_nil_of_mem (List.mem_of_getElem? hk)

end

/-- Settles O40: the block's turn is the grant (`blockTurn_grant`) of the waiter that the pick names
(`grantTurn_of_pick`). -/
theorem grantServesAWaiter : Obligations.GrantServesAWaiter := by
  unfold Obligations.GrantServesAWaiter
  intro s k caller w hr ht hl hq hk hp
  obtain ⟨whole, hstep⟩ := step_block hr ht
  rw [hstep, blockTurn_grant (s := s.dropTurn) hl hq (waiters_ne_nil hk), grantTurn_of_pick (s := s.dropTurn) hk hp]
  rfl

end Sys2Proof.Machine
end

section
/-! PROOFS. Whole operations under `ADAPTER_LIVE`: single turns run a program to its end, or to the abort of its first
failed transaction. An ATTACH and a WRITE whose transactions succeed run to READY, and a DETACH ends DETACHED whatever
its transactions return. -/

namespace Sys2Proof.Machine

/-! ### Turns that follow each other -/

theorem run_add {M : Host.Core} {m : Nat} {s u : M.State} (n : Nat) (h : M.run m s = .next u) :
    M.run (m + n) s = M.run n u := by
  induction m generalizing s with
  | zero =>
    cases h
    rw [Nat.zero_add]
  | succ m ih =>
    rw [Host.Core.run] at h
    rw [Nat.add_right_comm, Host.Core.run]
    cases hs : M.step s with
    | next v => exact ih (by simpa [hs] using h)
    | fault r => simp [hs] at h
    | refused r => simp [hs] at h

theorem core_run_add {m : Nat} {s u : State} (n : Nat) (h : core.run m s = .next u) :
    core.run (m + n) s = core.run n u :=
  run_add (M := core) n h

/-- Where the block has nothing to do, its turns change nothing (R301). -/
theorem core_run_at_rest {s : State} (hr : s.inst.refused = false) (hf : fetch false s = .nothing) (n : Nat)
    (ts : List Turn) : core.run n (s.withTurns (List.replicate n .single ++ ts)) = .next (s.withTurns ts) := by
  induction n with
  | zero => rfl
  | succ n ih =>
    have hf : fetch false (s.withTurns (List.replicate n .single ++ ts)) = .nothing := hf
    have hstep : step (s.withTurns (.single :: (List.replicate n .single ++ ts)))
        = .next (s.withTurns (List.replicate n .single ++ ts)) := by
      rw [step_withTurns_single hr, blockTurn, hf]
    rw [List.replicate_succ, List.cons_append, core_run_succ _ hstep, ih]

/-! ### Programs whose transactions succeed -/

section
variable {c : Ctx} {prog ms : List MicroOp} {s t : State} {new : List Event}

/-- With an adapter that succeeds for each of its transactions, a micro-program goes on to its end. -/
theorem runMicros_goesOn (h : s.AdapterOk (txCount ms)) : ∃ t, runMicros c ms s = .ok t := by
  induction ms generalizing s with
  | nil => exact ⟨s, rfl⟩
  | cons m ms ih =>
    cases m with
    | wait n =>
      have hw : (waitWhole n s).AdapterOk (txCount ms) := by
        rw [txCount_wait_cons] at h
        rw [waitWhole_eq]
        exact h
      exact ih hw
    | tx v rs en =>
      have hcount : txCount (.tx v rs en :: ms) = txCount ms + 1 := List.countP_cons_of_pos rfl
      obtain ⟨h0, hrest⟩ := Nat.forall_lt_succ_left.1 (hcount ▸ h)
      have hm : runMicro c (.tx v rs en) s =
          .ok ((transmit c.addr (image v rs c.backlight en) s).mapInst (Inst.advance (.tx v rs en))) :=
        txMicro_of_ok h0 ..
      rw [runMicros, hm]
      exact ih hrest

/-- R112: the port holds the last image of a run that goes on. -/
theorem runMicros_portLatch (h : runMicros c ms s = .ok t) :
    t.inst.portLatch = (imagesUnder c.backlight ms).foldl (fun _ img => .image img) s.inst.portLatch := by
  induction ms generalizing s with
  | nil =>
    obtain rfl : s = t := by simpa using h
    rfl
  | cons m ms ih =>
    obtain ⟨u, hm, hms⟩ := runMicros_cons_ok h
    rw [ih hms]
    rcases runMicro_ok hm with ⟨v, rs, en, rfl, hs, rfl⟩ | ⟨n, rfl, rfl⟩
    · rw [State.mapInst_inst, Inst.advance_portLatch, transmit_inst_portLatch, hs]
      rfl
    · rw [waitWhole_eq]
      rfl

/-- The images of a run that goes on are those of its micro-program. -/
theorem RunRecords.imagesOf_hist (r : RunRecords c ms s t new) :
    imagesOf t.inst.hist = imagesOf s.inst.hist ++ imagesUnder c.backlight ms := by
  rw [r.hist, imagesOf_append, r.recorded.imagesOf_eq]

/-- Behind the run of its whole program an operation is at its end. -/
theorem RunRecords.atEnd (r : RunRecords c prog s t new) (hq : s.inst.seq = some ⟨prog, 0⟩) :
    t.inst.atEnd = true := by
  have hseq : t.inst.seq = some ⟨prog, 0 + prog.length⟩ := by rw [r.seq, hq]; rfl
  rw [Inst.atEnd_of_seq hseq, decide_eq_true_eq]
  exact Nat.le_add_left _ _

/-- From the start of a program whose transactions succeed, single turns lead to where its run ends. -/
theorem core_run_program (hr : s.inst.refused = false) (hc : s.inst.ctx = some c) (hq : s.inst.seq = some ⟨prog, 0⟩)
    (hd : s.inst.dly = .idle) (hok : s.AdapterOk (txCount prog)) :
    ∃ t, runMicros c prog s = .ok t
      ∧ ∀ ts, core.run prog.length (s.settle.withTurns (List.replicate prog.length .single ++ ts))
          = .next (t.settle.withTurns ts) := by
  obtain ⟨t, h⟩ := runMicros_goesOn (c := c) hok
  exact ⟨t, h, core_run_singles hr hc hq hd (List.append_nil _).symm h⟩

end

/-! ### An ATTACH runs to READY -/

/-- An accepted ATTACH, its request on the lines, before its first wait starts (R244). -/
def State.attached (addr : Word7) (r : Request) (s : State) : State :=
  ({ s with port := r } : State).mapInst fun i => { i.startAttach addr r.caller s.now with dly := .idle }

section
variable {s t : State} {addr : Word7} {r : Request}

/-- R245: the ATTACH starts with its first wait in progress. -/
theorem settle_attached : (s.attached addr r).settle =
    ({ s with port := r } : State).mapInst (Inst.startAttach addr r.caller s.now) :=
  settle_of_wait (q := ⟨initProg, 0⟩) rfl rfl rfl

/-- The turn of a request that is an accepted ATTACH. -/
theorem step_attach (hr : s.inst.refused = false) (hl : s.inst.life = .detached) (hp : s.peerHolds addr = false)
    (hw : r.word = req16 0 addr 0b01) (hcap : r.capOk = true) (halloc : r.allocOk = true) (ts : List Turn) :
    step (s.withTurns (.host (.request r) :: ts)) = .next ((s.attached addr r).settle.withTurns ts) := by
  have hd : decodeReq16 r.word = .ok (.attach addr) := by
    rw [hw]
    exact decodeReq16_req16.2 (.inr (.inl ⟨rfl, rfl, rfl⟩))
  have hrun := issueAttach_accepted (s := { s.withTurns ts with port := r }) hl hp hcap halloc
  rw [step_request (s := s.withTurns (.host (.request r) :: ts)) hr rfl, hostTurn, hd, settle_attached]
  exact congrArg Host.Outcome.next hrun

/-- The turn on which `REG_OK` is 1, where the LCD has settled (R249). -/
theorem step_registered (hr : t.inst.refused = false) (hl : t.inst.life = .attaching) (ha : t.inst.atEnd = true)
    (htrail : t.inst.trail = []) (ts : List Turn) :
    step (t.withTurns (.register true :: ts)) = .next ((t.withTurns ts).mapInst Inst.endAttach) := by
  have hclose : (t.withTurns ts).inst.closeTrail = (t.withTurns ts).inst := Inst.closeTrail_of_settled htrail
  rw [step_register (s := t.withTurns (.register true :: ts)) hr rfl hl ha]
  exact congrArg (fun i => Host.Outcome.next { t.withTurns ts with inst := i.endAttach }) hclose

/-- With an adapter that succeeds, the request, a turn for each micro-operation of INIT_PROG, and `REG_OK`. -/
theorem core_run_attach (hr : s.inst.refused = false) (hl : s.inst.life = .detached) (hp : s.peerHolds addr = false)
    (hw : r.word = req16 0 addr 0b01) (hcap : r.capOk = true) (halloc : r.allocOk = true) (hok : s.AdapterOk 24)
    (ts : List Turn) :
    ∃ t, runMicros ⟨addr, true⟩ initProg (s.attached addr r) = .ok t
      ∧ core.run 59 (s.withTurns
          (.host (.request r) :: (List.replicate 57 .single ++ .register true :: ts)))
        = .next ((t.withTurns ts).mapInst Inst.endAttach) := by
  obtain ⟨t, hrun, hturns⟩ := core_run_program (s := s.attached addr r) (prog := initProg) hr rfl rfl rfl
    (by rw [txCount_initProg]; exact hok)
  obtain ⟨new, hrec⟩ := runMicros_records hrun
  obtain ⟨-, htrail⟩ := runMicros_lcdRun hrun rfl (lcdRun_init _)
  have hlife : t.inst.life = .attaching := hrec.frame.life
  have ha : t.inst.atEnd = true := hrec.atEnd rfl
  have hprogram := hturns (.register true :: ts)
  rw [settle_of_attaching hlife ha] at hprogram
  have hreg := step_registered (hrec.frame.refused.trans hr) hlife ha htrail ts
  exact ⟨t, hrun, (core_run_succ 58 (step_attach hr hl hp hw hcap halloc _)).trans
    ((core_run_add 1 hprogram).trans (core_run_succ 0 hreg))⟩

end

/-- Settles O57: the turns lead to where the run of INIT_PROG ends, with the ATTACH ended by `REG_OK`
(`core_run_attach`); the run records the images of R190, leaves the last one on the port (`runMicros_portLatch`), and
makes the LCD known (`lcdRun_init`). -/
theorem attachRunsToReady : Obligations.AttachRunsToReady := by
  unfold Obligations.AttachRunsToReady
  intro s addr caller data turns hr hl hp hok
  obtain ⟨t, hrun, hturns⟩ := core_run_attach (r := ⟨req16 0 addr 0b01, caller, data, true, true⟩) hr hl hp rfl rfl
    rfl hok turns
  obtain ⟨new, hrec⟩ := runMicros_records hrun
  have himages := hrec.imagesOf_hist
  have hlatch := runMicros_portLatch hrun
  rw [imagesUnder_initProg] at himages hlatch
  exact ⟨_, hturns, rfl, rfl, hrec.frame.ctx, rfl, himages, (runMicros_lcdRun hrun rfl (lcdRun_init _)).1, hlatch⟩

/-! ### A WRITE runs to its end -/

theorem step_grant {s : State} {k : Nat} {a : Nat × Waiter} (hr : s.inst.refused = false) (hl : s.inst.life = .ready)
    (hq : s.inst.seq = none) (hk : s.inst.waiters[k]? = some a) (ts : List Turn) :
    step (s.withTurns (.single :: ts)) = .next ((grantTurn s).withTurns ts) := by
  rw [step_withTurns_single hr]
  exact blockTurn_grant (s := s.withTurns ts) hl hq (waiters_ne_nil hk) false

/-- At its end a WRITE completes with its length as the count (R223). -/
theorem settle_of_writing {s : State} {w : Cur} (hl : s.inst.life = .writing) (hw : s.inst.cur = some w)
    (ha : s.inst.atEnd = true) : s.settle = s.mapInst fun i => i.closeTrail.endWrite (.ok w.len) := by
  rw [State.settle, if_pos ha, State.mapInst, Inst.complete_of_writing hl hw]
  rfl

/-- Settles O58: the first turn is the grant (`step_grant`, `grantTurn_of_pick`), and single turns run WB_PROG
(`core_run_program`), at whose end the WRITE completes (`settle_of_writing`); what the run keeps of the granted state is
its frame. -/
theorem writeRunsToCompletion : Obligations.WriteRunsToCompletion := by
  unfold Obligations.WriteRunsToCompletion
  intro s c k caller w turns hr hl hc hq hd hk hp hlegal hok
  have hg := grantTurn_of_pick hk hp
  have hseq : (grantTurn s).inst.seq = some ⟨wbProg w.len w.buf, 0⟩ := by rw [hg]
  have hctx : (grantTurn s).inst.ctx = some c := by rw [hg]; exact hc
  obtain ⟨t, hrun, hturns⟩ := core_run_program (s := grantTurn s) (by rw [hg]; exact hr) hctx hseq
    (by rw [hg]; exact hd) hok
  obtain ⟨new, hrec⟩ := runMicros_records hrun
  have hcur : t.inst.cur = some ⟨caller, w.len, w.buf⟩ := hrec.frame.cur.trans (by rw [hg])
  have hlife : t.inst.life = .writing := hrec.frame.life.trans (by rw [hg])
  have hprogram := hturns turns
  obtain ⟨v, rs, en, rest, hcons⟩ := wbProg_cons hlegal
  rw [settle_of_tx hseq hcons, settle_of_writing hlife hcur (hrec.atEnd hseq)] at hprogram
  refine ⟨_, (core_run_succ _ (step_grant hr hl hq hk _)).trans hprogram, rfl, rfl, rfl,
    hrec.frame.waiters.trans (by rw [hg]), hrec.frame.ctx.trans hctx, ?_, ?_⟩
  · have hresult := Inst.result_endWrite (i := t.inst.closeTrail) hcur (.ok w.len)
    rw [Result.word_ok, Inst.closeTrail_result, hrec.frame.result] at hresult
    exact hresult.trans (by rw [hg])
  · exact hrec.imagesOf_hist.trans (by rw [hg])

/-! ### A DETACH ends DETACHED -/

section
variable {c : Ctx} {q : Seq} {m : MicroOp} {ms rest : List MicroOp} {s t : State}

theorem runMicro_aborted_withTurns (h : runMicro c m s = .aborted t) (ts : List Turn) :
    runMicro c m (s.withTurns ts) = .aborted (t.withTurns ts) := by
  obtain ⟨v, rs, en, kind, rfl, hs, rfl⟩ := runMicro_aborted h
  have hs : (s.withTurns ts).nextTx.status = .err kind := hs
  exact txMicro_of_err hs ..

/-- From a settled state a single turn is the micro-operation at `upc`, and what its completion brings. -/
theorem step_settle_single (hr : s.inst.refused = false) (hc : s.inst.ctx = some c) (hq : s.inst.seq = some q)
    (hd : s.inst.dly = .idle) (hp : q.prog.drop q.upc = m :: rest) (ts : List Turn) :
    step (s.settle.withTurns (.single :: ts)) = .next ((runMicro c m s).finish.withTurns ts) := by
  rw [step_withTurns_single (by simpa using hr), ← State.settle_withTurns]
  cases hm : runMicro c m s with
  | ok u =>
    rw [Ran.finish, ← State.settle_withTurns]
    exact blockTurn_settle hc hq hd hp (runMicro_withTurns hm ts)
  | aborted u =>
    obtain ⟨v, rs, en, kind, rfl, -, -⟩ := runMicro_aborted hm
    have hf := (fetch_running false (s := s.withTurns ts) hc hq).trans (fetchAt_single_tx hp)
    rw [settle_of_tx (s := s.withTurns ts) hq hp, blockTurn_instr hf, exec_port (s := s.withTurns ts) hc hq,
      runMicros_single, runMicro_aborted_withTurns hm]
    rfl

/-- What an aborted run leaves: the frame of the micro-operations before, and the abort. -/
theorem runMicros_aborted_frame (h : runMicros c ms s = .aborted t) :
    ∃ u kind, s.SameButSequencer u ∧ t = u.mapInst (Inst.abort kind) := by
  induction ms generalizing s with
  | nil => cases h
  | cons m ms ih =>
    rcases runMicros_cons_aborted h with hm | ⟨u, hm, hms⟩
    · obtain ⟨v, rs, en, kind, -, -, rfl⟩ := runMicro_aborted hm
      exact ⟨_, kind, by constructor <;> rfl, rfl⟩
    · obtain ⟨e, hu⟩ := runMicro_records hm
      obtain ⟨u', kind, hframe, rfl⟩ := ih hms
      exact ⟨u', kind, hu.frame.trans hframe, rfl⟩

/-- By induction along the micro-operations: single turns lead to the abort, where the block then rests. -/
theorem core_run_singles_aborted (hr : s.inst.refused = false) (hc : s.inst.ctx = some c)
    (hq : s.inst.seq = some q) (hd : s.inst.dly = .idle) (hp : q.prog.drop q.upc = ms ++ rest)
    (h : runMicros c ms s = .aborted t) (ht : t.inst.refused = false) (hf : fetch false t = .nothing)
    (ts : List Turn) :
    core.run ms.length (s.settle.withTurns (List.replicate ms.length .single ++ ts)) = .next (t.withTurns ts) := by
  induction ms generalizing s q with
  | nil => cases h
  | cons m ms ih =>
    have hstep := step_settle_single hr hc hq hd hp (List.replicate ms.length .single ++ ts)
    rw [List.length_cons, List.replicate_succ, List.cons_append, core_run_succ _ hstep]
    rcases runMicros_cons_aborted h with hm | ⟨u, hm, hms⟩ <;> rw [hm, Ran.finish]
    · exact core_run_at_rest ht hf _ ts
    · obtain ⟨e, hu⟩ := runMicro_records hm
      exact ih (q := ⟨q.prog, q.upc + 1⟩) (hu.frame.refused.trans hr) (hu.frame.ctx.trans hc) (by simp [hu.seq, hq])
        (runMicro_idle hm hd) (drop_succ_of_drop hp) hms

/-- At its end a DETACH completes (R254). -/
theorem settle_of_detaching (hl : s.inst.life = .detaching) (ha : s.inst.atEnd = true) :
    s.settle = s.mapInst fun i => i.closeTrail.endDetach := by
  rw [State.settle, if_pos ha, State.mapInst, Inst.complete, hl]
  rfl

/-- R254: from its start single turns lead a DETACH to its end, whatever its transactions return. -/
theorem core_run_detach (hr : s.inst.refused = false) (hl : s.inst.life = .detaching) (hc : s.inst.ctx = some c)
    (hq : s.inst.seq = some ⟨detachProg, 0⟩) (hd : s.inst.dly = .idle) (ts : List Turn) :
    ∃ t i, core.run 8 (s.withTurns (List.replicate 8 .single ++ ts)) = .next t ∧ t.inst = Inst.endDetach i
      ∧ i.opCaller = s.inst.opCaller ∧ i.result = s.inst.result := by
  have hs : s.settle = s := settle_of_tx hq rfl
  have hp : detachProg.drop 0 = detachProg ++ [] := (List.append_nil _).symm
  cases h : runMicros c detachProg s with
  | ok t =>
    obtain ⟨new, hrec⟩ := runMicros_records h
    have hrun := core_run_singles hr hc hq hd hp h ts
    rw [hs, settle_of_detaching (hrec.frame.life.trans hl) (hrec.atEnd hq)] at hrun
    exact ⟨_, _, hrun, rfl, hrec.frame.opCaller, hrec.frame.result⟩
  | aborted t =>
    obtain ⟨u, kind, hframe, rfl⟩ := runMicros_aborted_frame h
    have hend := Inst.abort_of_detaching (hframe.life.trans hl) kind
    have hrest : fetch false (u.mapInst (Inst.abort kind)) = .nothing := by
      rw [fetch, State.mapInst_inst, hend]
      rfl
    have hrun := core_run_singles_aborted hr hc hq hd hp h
      ((Inst.abort_refused ..).trans (hframe.refused.trans hr)) hrest ts
    rw [hs] at hrun
    exact ⟨_, _, hrun, hend, hframe.opCaller, hframe.result⟩

end

/-- Settles O59: the run of DETACH_PROG ends in the same end of the DETACH, be it aborted or not
(`core_run_detach`). -/
theorem detachAlwaysEndsDetached : Obligations.DetachAlwaysEndsDetached := by
  unfold Obligations.DetachAlwaysEndsDetached
  intro s c caller turns hr hl hc ho hq hd
  obtain ⟨t, i, hrun, hend, hcaller, hresult⟩ := core_run_detach hr hl hc hq hd turns
  refine ⟨t, hrun, ?_⟩
  rw [hend, Inst.endDetach_of_caller (hcaller.trans ho), hresult]
  exact ⟨rfl, rfl, rfl, rfl, rfl⟩

end Sys2Proof.Machine
end

section
/-! PROOFS. The abort (spec/60_exceptions.md R273): where in its list an aborted run stopped, and what stands recorded. -/

namespace Sys2Proof.Machine

/-- An aborted run is a run that went on up to a transaction, and the failure of that transaction (R18, R273). -/
theorem runMicros_aborted_at {c : Ctx} {ms : List MicroOp} {s t : State} (h : runMicros c ms s = .aborted t) :
    ∃ before v rs en after u kind, ms = before ++ .tx v rs en :: after
      ∧ runMicros c before s = .ok u ∧ u.nextTx.status = .err kind
      ∧ t = (transmit c.addr (image v rs c.backlight en) u).mapInst (Inst.abort kind) := by
  induction ms generalizing s with
  | nil => cases h
  | cons m ms ih =>
    rcases runMicros_cons_aborted h with hm | ⟨s', hm, hms⟩
    · obtain ⟨v, rs, en, kind, rfl, hs, rfl⟩ := runMicro_aborted hm
      exact ⟨[], v, rs, en, ms, s, kind, rfl, rfl, hs, rfl⟩
    · obtain ⟨before, v, rs, en, after, u, kind, rfl, hok, hs, rfl⟩ := ih hms
      exact ⟨m :: before, v, rs, en, after, u, kind, rfl, by rw [runMicros, hm]; exact hok, hs, rfl⟩

/-- Settles O24: the run went on up to the failing transaction (`runMicros_aborted_at`), so what is before it is recorded
as success (`runMicros_records`); that transaction's entry comes last (`transmit_abort_hist`). -/
theorem abortIsPrecise : Obligations.AbortIsPrecise := by
  unfold Obligations.AbortIsPrecise
  intro c ms s t h
  obtain ⟨before, v, rs, en, after, u, kind, rfl, hok, hs, rfl⟩ := runMicros_aborted_at h
  obtain ⟨done, r⟩ := runMicros_records hok
  have hhist := (transmit_abort_hist hs c.addr (image v rs c.backlight en)).trans (by rw [r.hist])
  refine ⟨before.length, v, rs, en, done, _, _, kind, by simp, hhist, r.recorded.length_eq, ?_, ?_,
    r.recorded.not_failed, Inst.abort_seq .., ?_, Inst.abort_lcd ..⟩
  · rw [List.take_left]
    exact r.recorded
  · rw [List.take_left]
    exact r.recorded.imagesOf_eq
  · simp [latchAfter, hs]

end Sys2Proof.Machine
end

section
/-! PROOFS. The state after reset (spec/70_reset_and_hazards.md R300), and the invariants there: no instance is beside the
one in focus, no program runs, and no entry is recorded. -/

namespace Sys2Proof.Machine

/-- On a bus of one instance a property of every instance is one of that instance. -/
theorem State.all_of_no_peers {P : Inst → Prop} {s : State} (hp : s.peers = []) (h : P s.inst) : s.All P :=
  ⟨h, by simp [hp]⟩

/-- On a bus of one instance no two addresses can meet. -/
theorem State.addressesApart_of_no_peers {s : State} (hp : s.peers = []) : s.AddressesApart := by
  rw [State.AddressesApart, hp]
  exact List.pairwise_singleton _ _

/-- A history without entries, and no wait in progress, is legal at every time. -/
theorem Inst.historyOk_of_hist_nil {i : Inst} (hh : i.hist = []) (hd : i.dly = .idle) (now : Nat) : i.HistoryOk now where
  legal := by simp [hh]
  sequential := by simp [hh]
  past := by simp [hh]
  delay := by simp [hd]
  follows := by simp [hh]
  delayFollows := by simp [hd]

/-- R300: after reset the instance is DETACHED, and what exists in the other modes alone does not exist. -/
theorem Inst.reset_sound : Inst.reset.Sound where
  lock := rfl
  context := by simp [Inst.reset]
  backlight := nofun
  serving := by simp [Inst.reset]
  caller := by simp [Inst.reset]
  waiting := fun hne => absurd rfl hne
  waitersCanonical := List.Pairwise.nil
  waitersLegal := nofun
  curLegal := nofun
  oneOutstanding := nofun
  program := trivial
  delay := rfl
  resultsCanonical := List.Pairwise.nil
  resultsLegal := nofun
  attachLegal := nofun
  refusedNamed := rfl
  lcdCfg := Lcd.initOnly_unknown
  settled := fun _ => rfl

/-- Settles O7: each conjunct is a field of `Inst.reset`, at the value R300 gives it. -/
theorem resetState : Obligations.ResetState := by
  unfold Obligations.ResetState
  exact ⟨rfl, rfl, rfl, rfl, rfl, rfl, rfl, rfl, rfl, rfl, rfl, rfl, rfl⟩

/-- Settles O50: the one instance after reset is sound (`Inst.reset_sound`); it has recorded nothing and runs no program,
so its history is legal (`Inst.historyOk_of_hist_nil`) and its registers are in step (`Inst.fsmOk_of_no_seq`). -/
theorem resetIsSound : Obligations.ResetIsSound := by
  unfold Obligations.ResetIsSound
  have hp : State.reset.peers = [] := rfl
  exact ⟨State.all_of_no_peers hp Inst.reset_sound, State.all_of_no_peers hp (Inst.historyOk_of_hist_nil rfl rfl _),
    State.all_of_no_peers hp (Inst.fsmOk_of_no_seq rfl), State.addressesApart_of_no_peers hp⟩

end Sys2Proof.Machine
end
